-- ==== Sys2Proof/Word.lean ====
section
/-! DEFINITION. The word types of the block: every register is 32 bits wide on the bus, a 64-bit quantity occupies two
registers, and a stream byte or an operand field is 8 bits (spec 00_scope R7, R8; 10_state introduction). -/

namespace Sys2Proof

/-- One byte: a stream byte, an operand field of a command word, an offset in the register window. -/
abbrev Byte := BitVec 8

/-- One bus word: the width of every register on the host port (20_memory R71). -/
abbrev Word := BitVec 32

/-- A 64-bit quantity, held in two registers, `_LO` and `_HI` (20_memory R72). -/
abbrev DWord := BitVec 64

end Sys2Proof
end

