-- ==== Sys2Proof/Syntax.lean ====
section
/-! DEFINITION. The syntax: the commands of spec/opcode_table.json, the register names of 10_state R23, the host's
accesses, and the lines of a host program (30_encoding R107, R108). -/

namespace Sys2Proof

/-- The commands, one constructor per row of spec/opcode_table.json (30_encoding R102). Only LOAD_PATTERN has operands:
the domain code (field A) and the pattern index (field B) (30_encoding R103). -/
inductive Instr where
  | nop
  | loadPattern (d i : Byte)
  | compute
  | start
  | abort
  | clear
  | reset
deriving DecidableEq, Repr

/-- The registers of the window, by name, in the order of 10_state R23. -/
inductive Reg where
  | id | cmd | status | errCause | irqEn
  | onLevel | sampleRateHz | pwNs | priNs | pulseCount
  | burstPeriodNsLo | burstPeriodNsHi | minDurationNsLo | minDurationNsHi
  | pulseSamples | priSamples
  | padSamplesLo | padSamplesHi
  | totalBurstSamplesLo | totalBurstSamplesHi
  | burstCountLo | burstCountHi
  | totalSamplesLo | totalSamplesHi
  | totalBurstTimeNsLo | totalBurstTimeNsHi
  | effectiveCycleNsLo | effectiveCycleNsHi
  | padTimeNsLo | padTimeNsHi
  | emitBytesLo | emitBytesHi
deriving DecidableEq, Repr

/-- The 64-bit quantities that occupy two registers (20_memory R72). -/
inductive Reg64 where
  | burstPeriodNs | minDurationNs
  | padSamples | totalBurstSamples | burstCount | totalSamples
  | totalBurstTimeNs | effectiveCycleNs | padTimeNs
  | emitBytes
deriving DecidableEq, Repr

/-- What the host does when its turn comes: one access (20_memory R71), or one round of a polling loop of 30_encoding
R108, which reads STATUS and goes round again while the condition holds. -/
inductive HostOp where
  | read (addr : Byte)
  | write (addr : Byte) (v : Word)
  | waitNotBusy
  | waitCompute
deriving DecidableEq, Repr

/-- A line of a host program as written (30_encoding R107, R108). Numbers are as the programmer wrote them; whether they
fit is `HostLine.wellFormed`'s to say. -/
inductive HostLine where
  | wr (r : Reg) (imm32 : Nat)
  | rd (r : Reg)
  | cmd (i : Instr)
  | cmdLoadPattern (dom idx : Nat)
  | label (name : String)
  | wr64 (r : Reg64) (imm64 : Nat)
  | rd64 (r : Reg64)
  | w1c (mask : Nat)
  | waitNotBusy
  | waitCompute
deriving DecidableEq, Repr

end Sys2Proof
end

