-- ==== Sys2Proof/Machine/State.lean ====
section
/-! DEFINITION. The state of the block as 10_state R54 lists it, the environment data one deterministic step needs to run
the four agents of 00_scope R14, the reasons a step can stop, and the state after reset (10_state R53). -/

namespace Sys2Proof.Machine

/-- STATUS.STATE (10_state R24, R25). -/
inductive RunState where
  | idle
  | computing
  | emitting
  | error
deriving DecidableEq, Repr

/-- ERR_CAUSE.CODE by name (60_exceptions R250). "Codes 11 .. 255 are never written", so they have no constructor
(93_implementation_defined K21, assumption log 11). -/
inductive Cause where
  | none
  | cfgBadDomain
  | cfgBadIndex
  | cfgRateZero
  | cfgCountZero
  | cfgPwGePri
  | cfgNoFit
  | ovfSegment
  | ovfTotal
  | ioSink
  | selfcheck
deriving DecidableEq, Repr

/-- The nine result registers, the source's SampleCounts (10_state R38 to R46). -/
structure SampleCounts where
  pulseSamples : Word
  priSamples : Word
  padSamples : DWord
  totalBurstSamples : DWord
  burstCount : DWord
  totalSamples : DWord
  totalBurstTimeNs : DWord
  effectiveCycleNs : DWord
  padTimeNs : DWord
deriving DecidableEq, Repr

/-- What the sink receives (42_emission R199): an accepted byte with its end-of-stream flag, or the abort marker. -/
inductive StreamEvent where
  | byte (b : Byte) (last : Bool)
  | abort
deriving DecidableEq, Repr

/-- Whose turn a step is (00_scope R13, R14; 20_memory R82). `sinkAccept` is the sink holding `s_ready` high for one
transfer, `sinkError` the sink asserting `sink_err` (42_emission R192, R198), `hardReset` the platform pulling `rst_n`
low and releasing it (70_reset_and_hazards R290). Assumption log 1, 13. -/
inductive Turn where
  | host
  | core
  | sinkAccept
  | sinkError
  | hardReset
deriving DecidableEq, Repr

/-- The state. The first part is 10_state R54 field by field; the part marked ENVIRONMENT is the model's own (assumption
log 1, 3 and 5) and no access of the host reads it. -/
structure State where
  /-- STATUS.STATE (10_state R24, R25) -/
  state : RunState
  /-- STATUS.START_PENDING (10_state R24) -/
  startPending : Bool
  /-- STATUS.COUNTS_VALID (10_state R37) -/
  countsValid : Bool
  /-- STATUS.DONE (42_emission R194) -/
  done : Bool
  /-- STATUS.ABORTED (43_control R226) -/
  aborted : Bool
  /-- STATUS.REJECTED (43_control R221) -/
  rejected : Bool
  /-- ERR_CAUSE.CODE (10_state R27) -/
  errCause : Cause
  /-- IRQ_EN (10_state R28) -/
  irqEn : BitVec 4
  /-- ON_LEVEL.LEVEL (10_state R29) -/
  onLevel : Byte
  /-- SAMPLE_RATE_HZ (10_state R30) -/
  sampleRate : Word
  /-- PW_NS (10_state R31) -/
  pwNs : Word
  /-- PRI_NS (10_state R32) -/
  priNs : Word
  /-- PULSE_COUNT (10_state R33) -/
  pulseCount : Word
  /-- BURST_PERIOD_NS (10_state R34) -/
  burstPeriodNs : DWord
  /-- MIN_DURATION_NS (10_state R35) -/
  minDurationNs : DWord
  /-- PULSE_SAMPLES to PAD_TIME_NS (10_state R38 to R46) -/
  counts : SampleCounts
  /-- EMIT_BYTES, the emitter position (10_state R21, R48) -/
  pos : DWord
  /-- EMIT_HI_LATCH (10_state R49) -/
  emitHiLatch : Word
  /-- ENVIRONMENT: the host's accesses still to be performed, in program order (00_scope R14) -/
  hostProgram : List HostOp
  /-- ENVIRONMENT: the turns to come (00_scope R13) -/
  schedule : List Turn
  /-- ENVIRONMENT: the offset and value of every read the host performed, oldest first (20_memory R70 `bus_rdata`) -/
  hostReads : List (Byte × Word)
  /-- ENVIRONMENT: the sink's record of the stream, oldest first (42_emission R199) -/
  sinkRecord : List StreamEvent
  /-- ENVIRONMENT: what the free value `Config.resultRace` is applied to (assumption log 5) -/
  raceStep : Nat
deriving DecidableEq, Repr

/-- Why the machine stops with a fault. -/
inductive Fault where
  /-- Raised by the Emitter step alone, from a state in which 42_emission R191 to R193 give no byte at `pos`: an empty
  burst, `pos` at or past `2 * tot`, or `tot` past 2^63 - 1. R190 says no run reaches one. Safe: the model stops where
  the spec says nothing (assumption log 6). -/
  | emissionUndefined
deriving DecidableEq, Repr

/-- Why the machine refuses an instruction. -/
inductive Refusal where
  /-- Raised by a dispatch arm of a command that has no meaning yet. Safe. No arm of this model raises it. -/
  | notModelled (mnemonic : String)
deriving DecidableEq, Repr

/-- Every result register 0 (10_state R53). -/
def SampleCounts.zero : SampleCounts where
  pulseSamples := 0
  priSamples := 0
  padSamples := 0
  totalBurstSamples := 0
  burstCount := 0
  totalSamples := 0
  totalBurstTimeNs := 0
  effectiveCycleNs := 0
  padTimeNs := 0

/-- The machine right after reset (10_state R53, 70_reset_and_hazards R291): IDLE, every flag 0, ON_LEVEL 0x7F,
BURST_PERIOD_NS and MIN_DURATION_NS 10^9 ns, everything else 0. The environment's lists are empty and the model's counter
is 0 (DESIGN CHOICE, assumption log 3 and 5). -/
def State.reset : State where
  state := .idle
  startPending := false
  countsValid := false
  done := false
  aborted := false
  rejected := false
  errCause := .none
  irqEn := 0
  onLevel := 0x7F
  sampleRate := 0
  pwNs := 0
  priNs := 0
  pulseCount := 0
  burstPeriodNs := 1000000000
  minDurationNs := 1000000000
  counts := SampleCounts.zero
  pos := 0
  emitHiLatch := 0
  hostProgram := []
  schedule := []
  hostReads := []
  sinkRecord := []
  raceStep := 0

end Sys2Proof.Machine
end

