-- ==== Sys2Proof/Machine/Flags.lean ====
section
/-! DEFINITION. The status flags: the codes of STATE and ERR_CAUSE, the STATUS word, its write-1-to-clear, and the
interrupt level (10_state R24 to R28, R52; 60_exceptions R250, R260). -/

namespace Sys2Proof.Machine

/-- The code of STATE (10_state R24). -/
def runStateCode : RunState → BitVec 2
  | .idle => 0
  | .computing => 1
  | .emitting => 2
  | .error => 3

/-- The code of ERR_CAUSE.CODE (60_exceptions R250). -/
def causeCode : Cause → Byte
  | .none => 0
  | .cfgBadDomain => 1
  | .cfgBadIndex => 2
  | .cfgRateZero => 3
  | .cfgCountZero => 4
  | .cfgPwGePri => 5
  | .cfgNoFit => 6
  | .ovfSegment => 7
  | .ovfTotal => 8
  | .ioSink => 9
  | .selfcheck => 10

/-- STATUS.ERR reads 1 exactly when STATE = ERROR (10_state R24). -/
def errFlag (s : State) : Bool := s.state == .error

/-- A flag at bit `k` of a word (00_scope R8). -/
def flagBit (k : Nat) (b : Bool) : Word := (BitVec.ofBool b).setWidth 32 <<< k

/-- The word STATUS reads: the fields of 10_state R24, bits [31:8] zero. -/
def statusWord (s : State) : Word :=
  (runStateCode s.state).setWidth 32 ||| flagBit 2 s.countsValid ||| flagBit 3 s.startPending ||| flagBit 4 s.done
    ||| flagBit 5 s.aborted ||| flagBit 6 s.rejected ||| flagBit 7 (errFlag s)

/-- A STATUS write: DONE, ABORTED and REJECTED are write-1-to-clear at bits 4, 5 and 6; every other bit of `v` is ignored
(10_state R26). -/
def writeStatus (v : Word) (s : State) : State :=
  { s with
    done := s.done && !v.getLsbD 4
    aborted := s.aborted && !v.getLsbD 5
    rejected := s.rejected && !v.getLsbD 6 }

/-- The `irq` level (60_exceptions R260): a function of STATUS and IRQ_EN, no state of its own (10_state R51). -/
def irq (s : State) : Bool :=
  (s.done && s.irqEn.getLsbD 0) || (errFlag s && s.irqEn.getLsbD 1) || (s.aborted && s.irqEn.getLsbD 2)
    || (s.rejected && s.irqEn.getLsbD 3)

/-- The RWS is busy when STATE is COMPUTING or EMITTING (10_state R24). -/
def busy (s : State) : Bool := s.state == .computing || s.state == .emitting

/-- A stream has been begun and not yet ended: STATE = EMITTING, or STATE = COMPUTING for a START (42_emission R197). -/
def streaming (s : State) : Bool := s.state == .emitting || (s.state == .computing && s.startPending)

end Sys2Proof.Machine
end

