-- ==== Sys2Proof/Machine/Ops.lean ====
section
/-! DEFINITION. The shared operations: reject(), EmitAbort(), raise Error(code) and the return from it, the reset of every
register, the acceptance table, and the performing of a command. -/

namespace Sys2Proof.Machine

/-- `reject()`: REJECTED is set, and nothing else (43_control R221). -/
def reject (s : State) : State := { s with rejected := true }

/-- `EmitAbort()`: the abort marker reaches the sink; it carries no byte and needs no acceptance (42_emission R197). -/
def emitAbort (s : State) : State := { s with sinkRecord := s.sinkRecord ++ [.abort] }

/-- The abort marker of an incomplete stream, if one has been begun (42_emission R197). -/
def endOpenStream (s : State) : State := if streaming s then emitAbort s else s

/-- `raise Error(code)`, the block's trap entry (60_exceptions R256). -/
def raiseError (c : Cause) (s : State) : State :=
  { endOpenStream s with startPending := false, errCause := c, state := .error }

/-- The return from an error, what CLEAR does: ERR_CAUSE = 0 and ERROR becomes IDLE; nothing else is restored
(60_exceptions R257, 43_control R227). -/
def clearError (s : State) : State :=
  { s with errCause := .none, state := if s.state = .error then .idle else s.state }

/-- Every register and field of 10_state R53 takes its reset value; the environment (host, schedule, sink) is no part of
the block and is left as it is (70_reset_and_hazards R290). -/
def resetBlock (s : State) : State :=
  { State.reset with
    hostProgram := s.hostProgram
    schedule := s.schedule
    hostReads := s.hostReads
    sinkRecord := s.sinkRecord
    raceStep := s.raceStep }

/-- The acceptance table of 43_control R220, by command and STATE. -/
def accepted : Instr → RunState → Bool
  | .nop, _ => true
  | .loadPattern _ _, p => p == .idle
  | .compute, p => p == .idle
  | .start, p => p == .idle
  | .abort, _ => true
  | .clear, p => p == .idle || p == .error
  | .reset, _ => true

/-- An accepted command is performed in the step that writes it; one that is not accepted performs `reject()` and nothing
else (43_control R220). -/
def perform (i : Instr) (effect : State → State) (s : State) : Host.Outcome State Fault Refusal :=
  .next (if accepted i s.state then effect s else reject s)

end Sys2Proof.Machine
end

