-- ==== Sys2Proof/Machine/Emission.lean ====
section
/-! DEFINITION. Burst-pattern emission (42_emission): the closed form of the stream, the Emitter step, completion, and the
Sink error step; the loop form of R195 beside it. -/

namespace Sys2Proof.Machine

/-- What the stream of an emission depends on (42_emission, introduction; R196). -/
structure Waveform where
  pulses : Nat
  pulseSamples : Nat
  priSamples : Nat
  burstSamples : Nat
  totalSamples : Nat
  on : Byte
deriving DecidableEq, Repr

/-- The waveform the registers describe (42_emission, introduction). -/
def waveform (s : State) : Waveform where
  pulses := s.pulseCount.toNat
  pulseSamples := s.counts.pulseSamples.toNat
  priSamples := s.counts.priSamples.toNat
  burstSamples := s.counts.totalBurstSamples.toNat
  totalSamples := s.counts.totalSamples.toNat
  on := s.onLevel

/-- `isOn` at position `j` of a burst (42_emission R191). -/
def onAt (w : Waveform) (j : Nat) : Bool :=
  decide (j < w.pulses * w.priSamples) && decide (j % w.priSamples < w.pulseSamples)

/-- `I(k)` (42_emission R191). -/
def iSample (w : Waveform) (k : Nat) : Byte := if onAt w (k % w.burstSamples) then w.on else 0x00

/-- `Q(k)`, always zero (42_emission R191). -/
def qSample (_w : Waveform) (_k : Nat) : Byte := 0x00

/-- `B(p)`: I at even positions, Q at odd ones (42_emission R193, 20_memory R73). -/
def streamByte (w : Waveform) (p : Nat) : Byte := if p % 2 = 0 then iSample w (p / 2) else qSample w (p / 2)

/-- `s_last` at position `p` (42_emission R192). -/
def isLast (w : Waveform) (p : Nat) : Bool := decide (p + 1 = 2 * w.totalSamples)

/-- 42_emission R191 and R193 give a byte at `p`: the burst is not empty, `p < 2 * tot`, and the byte count fits 64 bits
(41_synthesis R170). R190 says this holds whenever STATE = EMITTING (assumption log 6). -/
def byteDefined (w : Waveform) (p : Nat) : Bool :=
  decide (1 ≤ w.burstSamples) && decide (p < 2 * w.totalSamples) && decide (w.totalSamples < 2 ^ 63)

/-- `Complete()` (42_emission R194). The self-check of R200 cannot fail in this design and is omitted, as R200 permits
(assumption log 7). -/
def complete (s : State) : State := { s with state := .idle, done := true }

/-- The byte at `pos` reaches the sink and `pos` advances by 1 (42_emission R192). -/
def deliverByte (s : State) : State :=
  { s with
    sinkRecord :=
      s.sinkRecord ++ [.byte (streamByte (waveform s) s.pos.toNat) (isLast (waveform s) s.pos.toNat)]
    pos := s.pos + 1 }

/-- The Emitter step: the sink accepts the offered byte (42_emission R192). Outside EMITTING `s_valid` is 0, so a ready
sink receives nothing (assumption log 8). -/
def emitterStep (s : State) : Host.Outcome State Fault Refusal :=
  if s.state = .emitting then
    if byteDefined (waveform s) s.pos.toNat then
      .next (if isLast (waveform s) s.pos.toNat then complete (deliverByte s) else deliverByte s)
    else .fault .emissionUndefined
  else .next s

/-- The Sink error step: IO_SINK while EMITTING, ignored in any other state (42_emission R198). -/
def sinkErrorStep (s : State) : State := if s.state = .emitting then raiseError .ioSink s else s

/-- `emit(i, q)` repeated `k` times, each I followed by Q (42_emission R195). -/
def emitPairs : Nat → Byte → List Byte
  | 0, _ => []
  | k + 1, i => i :: 0x00 :: emitPairs k i

/-- A list repeated `k` times, the `for` loops of 42_emission R195. -/
def repeatBytes : Nat → List Byte → List Byte
  | 0, _ => []
  | k + 1, body => body ++ repeatBytes k body

/-- The nested loop of 42_emission R195: `bc` bursts of `n` pulses and one pad each. -/
def loopStream (bc n ps rs pads : Nat) (on : Byte) : List Byte :=
  repeatBytes bc (repeatBytes n (emitPairs ps on ++ emitPairs (rs - ps) 0x00) ++ emitPairs pads 0x00)

end Sys2Proof.Machine
end

