-- ==== Sys2Proof/WellFormed.lean ====
section
/-! DEFINITION. Which terms of the syntax the spec calls legal. Every command is: the widths of LOAD_PATTERN's operands
are in their types, and 30_encoding R103 calls every value of them a legal encoding. The checks bear on the lines of a
host program, whose numbers and register names 30_encoding R107 and R108 restrict. -/

namespace Sys2Proof

/-- Every command is legal: "An operand value outside those sets is a legal encoding" (30_encoding R103), and no other
command has an operand. -/
def Instr.wellFormed : Instr → Bool
  | .nop => true
  | .loadPattern _ _ => true
  | .compute => true
  | .start => true
  | .abort => true
  | .clear => true
  | .reset => true

/-- The commands that `cmd <MNEMONIC>` names without operands (30_encoding R107). -/
def Instr.operandless : Instr → Bool
  | .nop => true
  | .loadPattern _ _ => false
  | .compute => true
  | .start => true
  | .abort => true
  | .clear => true
  | .reset => true

/-- The 64-bit registers `wr64` may name: "for BURST_PERIOD_NS, MIN_DURATION_NS" (30_encoding R108). -/
def Reg64.writable : Reg64 → Bool
  | .burstPeriodNs => true
  | .minDurationNs => true
  | .padSamples => false
  | .totalBurstSamples => false
  | .burstCount => false
  | .totalSamples => false
  | .totalBurstTimeNs => false
  | .effectiveCycleNs => false
  | .padTimeNs => false
  | .emitBytes => false

/-- A legal host-program line (30_encoding R107, R108): an `<imm32>` is below 2^32, an `<imm64>` below 2^64, the operands
of LOAD_PATTERN are 0..255, `cmd X` names an operandless command and `wr64` a 64-bit configuration register.
The spec gives a line outside these bounds no meaning; what `expandLine` makes of one is a choice of the model (assumption
log 15). -/
def HostLine.wellFormed : HostLine → Bool
  | .wr _ imm32 => decide (imm32 < 2 ^ 32)
  | .rd _ => true
  | .cmd i => i.operandless
  | .cmdLoadPattern dom idx => decide (dom < 256) && decide (idx < 256)
  | .label _ => true
  | .wr64 r imm64 => r.writable && decide (imm64 < 2 ^ 64)
  | .rd64 _ => true
  | .w1c mask => decide (mask < 2 ^ 32)
  | .waitNotBusy => true
  | .waitCompute => true

end Sys2Proof
end

