-- ==== Sys2Proof/Decode.lean ====
section
/-! DEFINITION. The command decoder (30_encoding R101 to R106), total on every 32-bit word, and the encoder after it. -/

namespace Sys2Proof

/-- OP, bits [7:0] (30_encoding R101). -/
def opField (w : Word) : Byte := w.extractLsb' 0 8

/-- Operand A, bits [15:8] (30_encoding R101). -/
def aField (w : Word) : Byte := w.extractLsb' 8 8

/-- Operand B, bits [23:16] (30_encoding R101). -/
def bField (w : Word) : Byte := w.extractLsb' 16 8

/-- RSV, bits [31:24] (30_encoding R101). -/
def rsvField (w : Word) : Byte := w.extractLsb' 24 8

/-- Why a word is ILLEGAL (30_encoding R105): a nonzero RSV field, a reserved OP, or a nonzero A or B on an operandless
OP. The block treats the three alike (43_control R229). -/
inductive IllegalWord where
  | reservedField
  | reservedOpcode
  | operandNotZero
deriving DecidableEq, Repr

/-- What the decoder answers: a command or ILLEGAL (30_encoding R104). -/
inductive Decoded where
  | command (i : Instr)
  | illegal (why : IllegalWord)
deriving DecidableEq, Repr

/-- The operandless commands by OP (30_encoding R102). -/
def operandlessOf (op : Byte) : Option Instr :=
  if op = 0x00#8 then some .nop
  else if op = 0x02#8 then some .compute
  else if op = 0x03#8 then some .start
  else if op = 0x04#8 then some .abort
  else if op = 0x05#8 then some .clear
  else if op = 0x06#8 then some .reset
  else none

/-- The decoder of 30_encoding R104. It depends on nothing but the word (R106). -/
def decode (w : Word) : Decoded :=
  if rsvField w ≠ 0#8 then .illegal .reservedField
  else if opField w = 0x01#8 then .command (.loadPattern (aField w) (bField w))
  else
    match operandlessOf (opField w) with
    | none => .illegal .reservedOpcode
    | some i => if aField w = 0#8 ∧ bField w = 0#8 then .command i else .illegal .operandNotZero

/-- OP of each command (30_encoding R102). -/
def opcodeOf : Instr → Byte
  | .nop => 0x00
  | .loadPattern _ _ => 0x01
  | .compute => 0x02
  | .start => 0x03
  | .abort => 0x04
  | .clear => 0x05
  | .reset => 0x06

/-- Operands B and A of each command; 0 for the operandless ones (30_encoding R101). -/
def operandsOf : Instr → Byte × Byte
  | .nop => (0, 0)
  | .loadPattern d i => (i, d)
  | .compute => (0, 0)
  | .start => (0, 0)
  | .abort => (0, 0)
  | .clear => (0, 0)
  | .reset => (0, 0)

/-- The encoder: the word column of 30_encoding R102, B at bits [23:16], A at bits [15:8], OP at bits [7:0], RSV zero. -/
def encode (i : Instr) : Word :=
  (operandsOf i).1.setWidth 32 <<< 16 ||| (operandsOf i).2.setWidth 32 <<< 8 ||| (opcodeOf i).setWidth 32

/-- One row of the match and mask table of 30_encoding R102. -/
structure OpcodeRow where
  mnemonic : String
  matchBits : Word
  maskBits : Word
deriving DecidableEq, Repr

/-- The mnemonic of a command (30_encoding R102). -/
def mnemonicOf : Instr → String
  | .nop => "NOP"
  | .loadPattern _ _ => "LOAD_PATTERN"
  | .compute => "COMPUTE"
  | .start => "START"
  | .abort => "ABORT"
  | .clear => "CLEAR"
  | .reset => "RESET"

/-- The match and mask table of 30_encoding R102: a word `w` selects a row when `w AND mask = match`. -/
def opcodeRows : List OpcodeRow :=
  [ ⟨"NOP", 0x00000000#32, 0xFFFFFFFF#32⟩,
    ⟨"LOAD_PATTERN", 0x00000001#32, 0xFF0000FF#32⟩,
    ⟨"COMPUTE", 0x00000002#32, 0xFFFFFFFF#32⟩,
    ⟨"START", 0x00000003#32, 0xFFFFFFFF#32⟩,
    ⟨"ABORT", 0x00000004#32, 0xFFFFFFFF#32⟩,
    ⟨"CLEAR", 0x00000005#32, 0xFFFFFFFF#32⟩,
    ⟨"RESET", 0x00000006#32, 0xFFFFFFFF#32⟩ ]

/-- A word selects a row (30_encoding R102). -/
def OpcodeRow.selects (r : OpcodeRow) (w : Word) : Bool := w &&& r.maskBits == r.matchBits

/-- The word of `nbits` table bits `w`, every bit above them 0 (assumption log 14). -/
def tableWord (nbits w : Nat) : Word := BitVec.ofNat 32 (w % 2 ^ nbits)

/-- The command the decoder reads from the table's bits. A command is one 32-bit word written in one access (30_encoding
R106); the port carries it whole, so no bytes are laid out (20_memory R72, assumption log 14). -/
def decodeTableWord (nbits w : Nat) : Option Instr :=
  if w % 2 ^ nbits < 2 ^ 32 then
    match decode (tableWord nbits w) with
    | .command i => some i
    | .illegal _ => none
  else none

end Sys2Proof
end

