-- ==== Sys2Proof/Machine/Control.lean ====
section
/-! DEFINITION. The control commands NOP, ABORT, CLEAR and RESET (43_control R225 to R228). -/

namespace Sys2Proof.Machine

/-- NOP: no effect (43_control R225). -/
def execNop (s : State) : Host.Outcome State Fault Refusal := perform .nop (fun s => s) s

/-- What ABORT does in each STATE (43_control R226). -/
def abortEffect (s : State) : State :=
  match s.state with
  | .idle => s
  | .error => s
  | .computing => { endOpenStream s with startPending := false, state := .idle, aborted := true }
  | .emitting => { endOpenStream s with state := .idle, aborted := true }

/-- ABORT (43_control R226). -/
def execAbort (s : State) : Host.Outcome State Fault Refusal := perform .abort abortEffect s

/-- CLEAR (43_control R227). -/
def execClear (s : State) : Host.Outcome State Fault Refusal := perform .clear clearError s

/-- RESET, the command: the abort marker for a stream it ends, then every reset value (43_control R228). -/
def execReset (s : State) : Host.Outcome State Fault Refusal := perform .reset (fun s => resetBlock (endOpenStream s)) s

/-- Hardware reset: every reset value, and no terminator on the stream (70_reset_and_hazards R290). -/
def hardResetStep (s : State) : State := resetBlock s

end Sys2Proof.Machine
end

