-- ==== Sys2Proof/Config.lean ====
section
/-! DEFINITION. What the spec leaves to the platform or leaves open as a value. Each is a constant with no body: nothing
in Lean can evaluate it or prove a value of it, so whatever is proved holds for every choice. -/

namespace Sys2Proof

/-- The byte address of the register window in the host's address space: the OPEN parameter `BASE_ADDR` of 20_memory R71
(92_eei_decisions D5, 93_implementation_defined K11). Assumption log 12. -/
opaque Config.baseAddr : Nat

/-- Free value of 93_implementation_defined K16 (70_reset_and_hazards R302): whether a host read of one half of a result
register while STATE = COMPUTING shows the new value of that half (true) or the old one (false). It is applied to the
model's counter `State.raceStep` and to the offset read. Assumption log 5. -/
opaque Config.resultRace : Nat → Byte → Bool

end Sys2Proof
end

