-- ==== Sys2Proof/Machine/Operands.lean ====
section
/-! DEFINITION. The operand forms: the domain code and the pattern index of LOAD_PATTERN (30_encoding R103, 40_pattern
R130), the two halves of a 64-bit quantity and the byte lanes of a word (20_memory R72), the signed reading of a stream
byte (00_scope R11). -/

namespace Sys2Proof.Machine

/-- The regulatory domain (00_scope R15, 40_pattern R130). -/
inductive Domain where
  | etsi
  | fcc
deriving DecidableEq, Repr

/-- A pattern index, one of 1 to 4 in either domain (40_pattern R130). -/
inductive PatternIndex where
  | one
  | two
  | three
  | four
deriving DecidableEq, Repr

/-- The domain a domain code names: 0 is ETSI, 1 is FCC, every other code is invalid (40_pattern R130, 30_encoding
R109). -/
def domainOf (d : Byte) : Option Domain :=
  if d = 0#8 then some .etsi else if d = 1#8 then some .fcc else none

/-- The pattern index an operand names; 1 to 4 are valid (40_pattern R130). -/
def indexOf (i : Byte) : Option PatternIndex :=
  if i = 1#8 then some .one
  else if i = 2#8 then some .two
  else if i = 3#8 then some .three
  else if i = 4#8 then some .four
  else none

/-- The `_LO` half, bits [31:0] (20_memory R72). -/
def lowHalf (v : DWord) : Word := v.extractLsb' 0 32

/-- The `_HI` half, bits [63:32] (20_memory R72). -/
def highHalf (v : DWord) : Word := v.extractLsb' 32 32

/-- `{HI, LO}` (00_scope R8, 10_state R34). -/
def joinHalves (hi lo : Word) : DWord := hi.setWidth 64 <<< 32 ||| lo.setWidth 64

/-- A write of the `_LO` half alone leaves the old HI (70_reset_and_hazards R304). -/
def setLowHalf (v : DWord) (lo : Word) : DWord := joinHalves (highHalf v) lo

/-- A write of the `_HI` half alone leaves the old LO (70_reset_and_hazards R304). -/
def setHighHalf (v : DWord) (hi : Word) : DWord := joinHalves hi (lowHalf v)

/-- Byte `k` of a word on a byte-addressed bus, bits [8k+7 : 8k] (20_memory R72; the placement is the platform's). -/
def byteLane (v : Word) (k : Nat) : Byte := v.extractLsb' (8 * k) 8

/-- The byte address of byte `k` of the register at window offset `off` (20_memory R72, R71: `BASE_ADDR` is open). -/
def laneAddress (off : Byte) (k : Nat) : Nat := Config.baseAddr + off.toNat + k

/-- `s8(b)`: how a consumer reads a stream byte (00_scope R11). -/
def s8 (b : Byte) : Int := if b.toNat < 128 then (b.toNat : Int) else (b.toNat : Int) - 256

end Sys2Proof.Machine
end

