-- ==== Sys2Proof/Machine/Pattern.lean ====
section
/-! DEFINITION. The pattern resolver: the table of 40_pattern R131 and LOAD_PATTERN (R133). -/

namespace Sys2Proof.Machine

/-- A radar profile: PW_NS, PRI_NS and PULSE_COUNT (00_scope R15, 40_pattern R131). -/
structure Profile where
  pwNs : Word
  priNs : Word
  pulseCount : Word
deriving DecidableEq, Repr

/-- `Rom(d, i)`, the pattern table (40_pattern R131). -/
def rom : Domain → PatternIndex → Profile
  | .etsi, .one => ⟨1000, 1428000, 18⟩
  | .etsi, .two => ⟨3000, 1667000, 10⟩
  | .etsi, .three => ⟨12000, 1111000, 15⟩
  | .etsi, .four => ⟨25000, 333000, 20⟩
  | .fcc, .one => ⟨1000, 1428000, 18⟩
  | .fcc, .two => ⟨3000, 190000, 26⟩
  | .fcc, .three => ⟨8000, 350000, 17⟩
  | .fcc, .four => ⟨16000, 350000, 14⟩

/-- What an accepted LOAD_PATTERN does: the domain is checked before the index, a failing one writes no profile register
(40_pattern R133, 60_exceptions R253). -/
def loadPattern (d i : Byte) (s : State) : State :=
  match domainOf d with
  | none => raiseError .cfgBadDomain s
  | some dom =>
    match indexOf i with
    | none => raiseError .cfgBadIndex s
    | some idx =>
      { s with
        pwNs := (rom dom idx).pwNs
        priNs := (rom dom idx).priNs
        pulseCount := (rom dom idx).pulseCount
        countsValid := false }

/-- LOAD_PATTERN d, i (40_pattern R133). -/
def execLoadPattern (d i : Byte) (s : State) : Host.Outcome State Fault Refusal :=
  perform (.loadPattern d i) (loadPattern d i) s

end Sys2Proof.Machine
end

