-- ==== Sys2Proof/Machine/Synthesis.lean ====
section
/-! DEFINITION. Quantization and sample-count arithmetic (41_synthesis): exact naturals, no intermediate rounding, every
bound checked before a register is written (00_scope R9). COMPUTE, START and the Core step. -/

namespace Sys2Proof.Machine

/-- Round half up of `a / b`, `b > 0` (00_scope R10). -/
def rhu (a b : Nat) : Nat := (2 * a + b) / (2 * b)

/-- Nanoseconds in a second, the divisor of every quantization (41_synthesis R163, R166). -/
def nsPerSecond : Nat := 10 ^ 9

/-- The exact results of a computation, before they are written (41_synthesis R151). -/
structure QuantResult where
  pulseSamples : Nat
  priSamples : Nat
  padSamples : Nat
  totalBurstSamples : Nat
  burstCount : Nat
  totalSamples : Nat
  totalBurstTime : Nat
  effectiveCycle : Nat
  padTime : Nat
deriving DecidableEq, Repr

/-- What `quantize` returns (41_synthesis R151). -/
inductive QuantOutcome where
  | result (r : QuantResult)
  | error (c : Cause)
deriving DecidableEq, Repr

/-- Steps 1 to 10 of 41_synthesis R151 with no check: every line is one rule of R163 to R170. -/
def computeCounts (fs pw pri n bp md : Nat) : QuantResult :=
  let ps := rhu (pw * fs) nsPerSecond
  let rs := rhu (pri * fs) nsPerSecond
  let tbt := n * pri
  let ecy := max bp tbt
  let pad := ecy - tbt
  let pads := max 0 (rhu (pad * fs) nsPerSecond)
  let tbs := n * rs + pads
  let bc := max 1 (md / ecy)
  { pulseSamples := ps
    priSamples := rs
    padSamples := pads
    totalBurstSamples := tbs
    burstCount := bc
    totalSamples := tbs * bc
    totalBurstTime := tbt
    effectiveCycle := ecy
    padTime := pad }

/-- The function `quantize` of 41_synthesis R151, its checks in the order of R161: the configuration checks (R162), then
the overflow bounds (R171). -/
def quantize (fs pw pri n bp md : Nat) : QuantOutcome :=
  let r := computeCounts fs pw pri n bp md
  if fs = 0 then .error .cfgRateZero
  else if n = 0 then .error .cfgCountZero
  else if pw ≥ pri then .error .cfgPwGePri
  else if r.priSamples ≤ r.pulseSamples then .error .cfgNoFit
  else if r.priSamples > 2 ^ 32 - 1 ∨ r.padSamples > 2 ^ 64 - 1 ∨ r.totalBurstSamples > 2 ^ 64 - 1 then
    .error .ovfSegment
  else if r.totalSamples > 2 ^ 63 - 1 then .error .ovfTotal
  else .result r

/-- The inputs of a computation are the six timing registers (41_synthesis R150). -/
def quantizeState (s : State) : QuantOutcome :=
  quantize s.sampleRate.toNat s.pwNs.toNat s.priNs.toNat s.pulseCount.toNat s.burstPeriodNs.toNat s.minDurationNs.toNat

/-- The results as the nine registers hold them; every value fits its width (41_synthesis R160, R171). -/
def storeCounts (r : QuantResult) : SampleCounts where
  pulseSamples := BitVec.ofNat 32 r.pulseSamples
  priSamples := BitVec.ofNat 32 r.priSamples
  padSamples := BitVec.ofNat 64 r.padSamples
  totalBurstSamples := BitVec.ofNat 64 r.totalBurstSamples
  burstCount := BitVec.ofNat 64 r.burstCount
  totalSamples := BitVec.ofNat 64 r.totalSamples
  totalBurstTimeNs := BitVec.ofNat 64 r.totalBurstTime
  effectiveCycleNs := BitVec.ofNat 64 r.effectiveCycle
  padTimeNs := BitVec.ofNat 64 r.padTime

/-- The Core step (41_synthesis R160). It is enabled exactly when STATE = COMPUTING; a turn of the Core in any other state
takes no step (assumption log 8). -/
def coreStep (s : State) : State :=
  if s.state = .computing then
    match quantizeState s with
    | .error c => raiseError c s
    | .result r =>
      if s.startPending then
        { s with counts := storeCounts r, countsValid := true, startPending := false, state := .emitting }
      else
        { s with counts := storeCounts r, countsValid := true, state := .idle }
  else s

/-- COMPUTE (41_synthesis R175). -/
def execCompute (s : State) : Host.Outcome State Fault Refusal :=
  perform .compute (fun s => { s with countsValid := false, startPending := false, state := .computing }) s

/-- START (41_synthesis R176). -/
def execStart (s : State) : Host.Outcome State Fault Refusal :=
  perform .start
    (fun s =>
      { s with
        countsValid := false
        done := false
        aborted := false
        pos := 0
        startPending := true
        state := .computing })
    s

end Sys2Proof.Machine
end

