-- ==== Sys2Proof/Machine/Dispatch.lean ====
section
/-! DEFINITION. The dispatch: one arm per command. -/

namespace Sys2Proof.Machine

def exec (i : Instr) (s : State) : Host.Outcome State Fault Refusal :=
  match i with
  | .nop => Sys2Proof.Machine.execNop s
  | .loadPattern dom idx => Sys2Proof.Machine.execLoadPattern dom idx s
  | .compute => Sys2Proof.Machine.execCompute s
  | .start => Sys2Proof.Machine.execStart s
  | .abort => Sys2Proof.Machine.execAbort s
  | .clear => Sys2Proof.Machine.execClear s
  | .reset => Sys2Proof.Machine.execReset s

end Sys2Proof.Machine
end

