-- ==== Sys2Proof/Machine/Registers.lean ====
section
/-! DEFINITION. The register map (10_state R23): offsets, classes, what a read of each register returns and what a write
to a configuration register does. Every access to a register goes through here. -/

namespace Sys2Proof.Machine

/-- The offset of each register (10_state R23). -/
def regOffset : Reg → Byte
  | .id => 0x00
  | .cmd => 0x04
  | .status => 0x08
  | .errCause => 0x0C
  | .irqEn => 0x10
  | .onLevel => 0x14
  | .sampleRateHz => 0x18
  | .pwNs => 0x1C
  | .priNs => 0x20
  | .pulseCount => 0x24
  | .burstPeriodNsLo => 0x28
  | .burstPeriodNsHi => 0x2C
  | .minDurationNsLo => 0x30
  | .minDurationNsHi => 0x34
  | .pulseSamples => 0x40
  | .priSamples => 0x44
  | .padSamplesLo => 0x48
  | .padSamplesHi => 0x4C
  | .totalBurstSamplesLo => 0x50
  | .totalBurstSamplesHi => 0x54
  | .burstCountLo => 0x58
  | .burstCountHi => 0x5C
  | .totalSamplesLo => 0x60
  | .totalSamplesHi => 0x64
  | .totalBurstTimeNsLo => 0x68
  | .totalBurstTimeNsHi => 0x6C
  | .effectiveCycleNsLo => 0x70
  | .effectiveCycleNsHi => 0x74
  | .padTimeNsLo => 0x78
  | .padTimeNsHi => 0x7C
  | .emitBytesLo => 0x80
  | .emitBytesHi => 0x84

/-- Every register of the map, in offset order (10_state R23). -/
def allRegs : List Reg :=
  [ .id, .cmd, .status, .errCause, .irqEn, .onLevel, .sampleRateHz, .pwNs, .priNs, .pulseCount,
    .burstPeriodNsLo, .burstPeriodNsHi, .minDurationNsLo, .minDurationNsHi ] ++
  [ .pulseSamples, .priSamples, .padSamplesLo, .padSamplesHi, .totalBurstSamplesLo, .totalBurstSamplesHi,
    .burstCountLo, .burstCountHi, .totalSamplesLo, .totalSamplesHi, .totalBurstTimeNsLo, .totalBurstTimeNsHi,
    .effectiveCycleNsLo, .effectiveCycleNsHi, .padTimeNsLo, .padTimeNsHi, .emitBytesLo, .emitBytesHi ]

/-- The register at an offset; `none` is a reserved offset when the offset is aligned (10_state R23, R50). -/
def regAt (addr : Byte) : Option Reg := allRegs.find? (fun r => regOffset r == addr)

/-- `addr[1:0] ≠ 0` (20_memory R74). -/
def misaligned (addr : Byte) : Bool := addr.extractLsb' 0 2 != 0#2

/-- The class "cfg", subject to the busy lock (10_state R23, R36). -/
def isConfig : Reg → Bool
  | .onLevel | .sampleRateHz | .pwNs | .priNs | .pulseCount => true
  | .burstPeriodNsLo | .burstPeriodNsHi | .minDurationNsLo | .minDurationNsHi => true
  | _ => false

/-- The class "timing", whose accepted write clears COUNTS_VALID (10_state R23, R37); ON_LEVEL is not one (R29). -/
def isTiming : Reg → Bool
  | .sampleRateHz | .pwNs | .priNs | .pulseCount => true
  | .burstPeriodNsLo | .burstPeriodNsHi | .minDurationNsLo | .minDurationNsHi => true
  | _ => false

/-- ID reads this constant at all times (10_state R22). -/
def idValue : Word := 0x52414452

/-- The half of a result register that an offset shows (10_state R38 to R46); 0 for a register of another class. -/
def resultHalf (c : SampleCounts) : Reg → Word
  | .pulseSamples => c.pulseSamples
  | .priSamples => c.priSamples
  | .padSamplesLo => lowHalf c.padSamples
  | .padSamplesHi => highHalf c.padSamples
  | .totalBurstSamplesLo => lowHalf c.totalBurstSamples
  | .totalBurstSamplesHi => highHalf c.totalBurstSamples
  | .burstCountLo => lowHalf c.burstCount
  | .burstCountHi => highHalf c.burstCount
  | .totalSamplesLo => lowHalf c.totalSamples
  | .totalSamplesHi => highHalf c.totalSamples
  | .totalBurstTimeNsLo => lowHalf c.totalBurstTimeNs
  | .totalBurstTimeNsHi => highHalf c.totalBurstTimeNs
  | .effectiveCycleNsLo => lowHalf c.effectiveCycleNs
  | .effectiveCycleNsHi => highHalf c.effectiveCycleNs
  | .padTimeNsLo => lowHalf c.padTimeNs
  | .padTimeNsHi => highHalf c.padTimeNs
  | _ => 0

/-- The result registers the pending computation will leave: the new ones if it succeeds, the old ones if it fails
(41_synthesis R160, 10_state R47). -/
def pendingCounts (s : State) : SampleCounts :=
  match quantizeState s with
  | .result r => storeCounts r
  | .error _ => s.counts

/-- A read of a result register: the register; while STATE = COMPUTING the old or the new value of that half, a free
value (70_reset_and_hazards R302, 93_implementation_defined K16; assumption log 5). -/
def readResult (r : Reg) (s : State) : Word :=
  if s.state = .computing then
    if Config.resultRace s.raceStep (regOffset r) then resultHalf (pendingCounts s) r else resultHalf s.counts r
  else resultHalf s.counts r

/-- The word a read of each register returns, before any side effect (10_state R22 to R49; CMD reads 0, 30_encoding
R100). -/
def readReg (r : Reg) (s : State) : Word :=
  match r with
  | .id => idValue
  | .cmd => 0
  | .status => statusWord s
  | .errCause => (causeCode s.errCause).setWidth 32
  | .irqEn => s.irqEn.setWidth 32
  | .onLevel => s.onLevel.setWidth 32
  | .sampleRateHz => s.sampleRate
  | .pwNs => s.pwNs
  | .priNs => s.priNs
  | .pulseCount => s.pulseCount
  | .burstPeriodNsLo => lowHalf s.burstPeriodNs
  | .burstPeriodNsHi => highHalf s.burstPeriodNs
  | .minDurationNsLo => lowHalf s.minDurationNs
  | .minDurationNsHi => highHalf s.minDurationNs
  | .emitBytesLo => lowHalf s.pos
  | .emitBytesHi => s.emitHiLatch
  | r => readResult r s

/-- The side effect of a read: EMIT_BYTES_LO loads EMIT_HI_LATCH, no other register has one (10_state R49, 20_memory
R76). -/
def readEffect (r : Reg) (s : State) : State :=
  match r with
  | .emitBytesLo => { s with emitHiLatch := highHalf s.pos }
  | _ => s

/-- A configuration register takes the written value: ON_LEVEL its low 8 bits, a `_LO` or `_HI` register its half
(10_state R29 to R35); a register of another class is left alone. -/
def setConfig (r : Reg) (v : Word) (s : State) : State :=
  match r with
  | .onLevel => { s with onLevel := v.extractLsb' 0 8 }
  | .sampleRateHz => { s with sampleRate := v }
  | .pwNs => { s with pwNs := v }
  | .priNs => { s with priNs := v }
  | .pulseCount => { s with pulseCount := v }
  | .burstPeriodNsLo => { s with burstPeriodNs := setLowHalf s.burstPeriodNs v }
  | .burstPeriodNsHi => { s with burstPeriodNs := setHighHalf s.burstPeriodNs v }
  | .minDurationNsLo => { s with minDurationNs := setLowHalf s.minDurationNs v }
  | .minDurationNsHi => { s with minDurationNs := setHighHalf s.minDurationNs v }
  | _ => s

/-- An accepted write of a timing register clears COUNTS_VALID, even if the value is the old one (10_state R37). -/
def noteTimingWrite (r : Reg) (s : State) : State := if isTiming r then { s with countsValid := false } else s

/-- A host write to a configuration register: rejected while busy (10_state R36). -/
def writeConfig (r : Reg) (v : Word) (s : State) : State :=
  if busy s then reject s else noteTimingWrite r (setConfig r v s)

/-- A write to IRQ_EN, in every state; bits [31:4] are ignored (10_state R28). -/
def writeIrqEn (v : Word) (s : State) : State := { s with irqEn := v.extractLsb' 0 4 }

end Sys2Proof.Machine
end

