-- ==== Sys2Proof/Machine/Bus.lean ====
section
/-! DEFINITION. The host port: MemRead and MemWrite (20_memory R71, R74, R76). A write to CMD decodes and performs a
command in the same step (30_encoding R100). -/

namespace Sys2Proof.Machine

/-- A write to CMD: the word is decoded and performed, or rejected as illegal (30_encoding R100, 43_control R229). -/
def writeCommand (w : Word) (s : State) : Host.Outcome State Fault Refusal :=
  match decode w with
  | .command i => exec i s
  | .illegal _ => .next (reject s)

/-- A write to a register (10_state R23): ID, ERR_CAUSE, the result registers and EMIT_BYTES ignore it, with no rejection
(R22, R27, R47, R48). -/
def writeReg (r : Reg) (v : Word) (s : State) : Host.Outcome State Fault Refusal :=
  match r with
  | .cmd => writeCommand v s
  | .status => .next (writeStatus v s)
  | .irqEn => .next (writeIrqEn v s)
  | r => .next (if isConfig r then writeConfig r v s else s)

/-- `MemWrite(addr, 4, v)`: a misaligned one changes no register and rejects (20_memory R74); a reserved offset ignores it
(10_state R50). -/
def memWrite (addr : Byte) (v : Word) (s : State) : Host.Outcome State Fault Refusal :=
  if misaligned addr then .next (reject s)
  else
    match regAt addr with
    | none => .next s
    | some r => writeReg r v s

/-- The word `MemRead(addr, 4)` returns: 0 for a misaligned or a reserved offset (20_memory R74, 10_state R50). -/
def memReadValue (addr : Byte) (s : State) : Word :=
  if misaligned addr then 0
  else
    match regAt addr with
    | none => 0
    | some r => readReg r s

/-- The state after `MemRead(addr, 4)`: a misaligned read rejects and has no other side effect (20_memory R74). -/
def memReadState (addr : Byte) (s : State) : State :=
  if misaligned addr then reject s
  else
    match regAt addr with
    | none => s
    | some r => readEffect r s

end Sys2Proof.Machine
end

