-- ==== Sys2Proof/Machine/HostProgram.lean ====
section
/-! DEFINITION. The Host: how the lines of a host program expand into accesses (30_encoding R107 to R109) and what one
turn of the Host does (20_memory R80). -/

namespace Sys2Proof.Machine

/-- The `_LO` register of a 64-bit quantity (20_memory R72). -/
def loReg : Reg64 → Reg
  | .burstPeriodNs => .burstPeriodNsLo
  | .minDurationNs => .minDurationNsLo
  | .padSamples => .padSamplesLo
  | .totalBurstSamples => .totalBurstSamplesLo
  | .burstCount => .burstCountLo
  | .totalSamples => .totalSamplesLo
  | .totalBurstTimeNs => .totalBurstTimeNsLo
  | .effectiveCycleNs => .effectiveCycleNsLo
  | .padTimeNs => .padTimeNsLo
  | .emitBytes => .emitBytesLo

/-- The `_HI` register of a 64-bit quantity (20_memory R72). -/
def hiReg : Reg64 → Reg
  | .burstPeriodNs => .burstPeriodNsHi
  | .minDurationNs => .minDurationNsHi
  | .padSamples => .padSamplesHi
  | .totalBurstSamples => .totalBurstSamplesHi
  | .burstCount => .burstCountHi
  | .totalSamples => .totalSamplesHi
  | .totalBurstTimeNs => .totalBurstTimeNsHi
  | .effectiveCycleNs => .effectiveCycleNsHi
  | .padTimeNs => .padTimeNsHi
  | .emitBytes => .emitBytesHi

/-- The symbols ETSI = 0 and FCC = 1 (30_encoding R109). -/
def domainSymbol : Domain → Nat
  | .etsi => 0
  | .fcc => 1

/-- The word of `cmd LOAD_PATTERN d, i`: `(i << 16) OR (d << 8) OR 0x01` (30_encoding R108). For an operand above 255, to
which R107 gives no meaning, the formula is applied all the same and cut to 32 bits: DESIGN CHOICE, assumption log 15. -/
def loadPatternWord (dom idx : Nat) : Word := BitVec.ofNat 32 ((idx <<< 16) ||| (dom <<< 8) ||| 0x01)

/-- The accesses a line performs (30_encoding R107, R108). A label performs none. DESIGN CHOICE (assumption log 15): the spec
gives no meaning to a line outside its syntax, one that `HostLine.wellFormed` refuses; here such a line expands as the
others do, its number taken modulo 2^32 (`wr`, `w1c`, `cmd LOAD_PATTERN`) or modulo 2^64 (`wr64`). Unsafe for a claim about
what such a line does, safe for every other: the accesses it gives are legal accesses. -/
def expandLine : HostLine → List HostOp
  | .wr r imm32 => [.write (regOffset r) (BitVec.ofNat 32 imm32)]
  | .rd r => [.read (regOffset r)]
  | .cmd i => [.write (regOffset .cmd) (encode i)]
  | .cmdLoadPattern dom idx => [.write (regOffset .cmd) (loadPatternWord dom idx)]
  | .label _ => []
  | .wr64 r imm64 =>
    [.write (regOffset (loReg r)) (lowHalf (BitVec.ofNat 64 imm64)),
     .write (regOffset (hiReg r)) (highHalf (BitVec.ofNat 64 imm64))]
  | .rd64 r => [.read (regOffset (loReg r)), .read (regOffset (hiReg r))]
  | .w1c mask => [.write (regOffset .status) (BitVec.ofNat 32 mask)]
  | .waitNotBusy => [.waitNotBusy]
  | .waitCompute => [.waitCompute]

/-- The accesses of a host program, in program order (30_encoding R107, 20_memory R80). Lines outside the syntax are not
refused (DESIGN CHOICE, assumption log 15). -/
def expandProgram (lines : List HostLine) : List HostOp := lines.flatMap expandLine

/-- A read, its value noted in the host's record (20_memory R70 `bus_rdata`). -/
def readAndRecord (addr : Byte) (s : State) : State :=
  { memReadState addr s with hostReads := s.hostReads ++ [(addr, memReadValue addr s)] }

/-- One access of the Host, the accesses after it being `rest`. A polling loop reads STATUS and stays at the head while
its condition holds (30_encoding R108; assumption log 4). -/
def performHostOp (op : HostOp) (rest : List HostOp) (s : State) : Host.Outcome State Fault Refusal :=
  match op with
  | .read addr => .next (readAndRecord addr { s with hostProgram := rest })
  | .write addr v => memWrite addr v { s with hostProgram := rest }
  | .waitNotBusy =>
    .next (readAndRecord (regOffset .status) { s with hostProgram := if busy s then .waitNotBusy :: rest else rest })
  | .waitCompute =>
    .next (readAndRecord (regOffset .status)
      { s with hostProgram := if s.state = .computing then .waitCompute :: rest else rest })

/-- A turn of the Host: its next access; with no access left the Host does nothing (70_reset_and_hazards R313: no
fairness is assumed of it). -/
def hostStep (s : State) : Host.Outcome State Fault Refusal :=
  match s.hostProgram with
  | [] => .next s
  | op :: rest => performHostOp op rest s

end Sys2Proof.Machine
end

