-- ==== Sys2Proof/Machine/Agents.lean ====
section
/-! DEFINITION. Whose turn it is: one turn of each agent of 00_scope R14, and the order the hardware gives events of one
clock cycle (60_exceptions R264). -/

namespace Sys2Proof.Machine

/-- A turn of an agent other than the Host moves the model's counter on, so that the free value of
93_implementation_defined K16 may differ after it, and only after it (20_memory R76; assumption log 5). -/
def countRace (s : State) : State := { s with raceStep := s.raceStep + 1 }

/-- One turn (00_scope R13, R14; 70_reset_and_hazards R290). A turn whose step is not enabled changes nothing of the block
(assumption log 8). -/
def takeTurn (t : Turn) (s : State) : Host.Outcome State Fault Refusal :=
  match t with
  | .host => hostStep s
  | .core => .next (coreStep (countRace s))
  | .sinkAccept => emitterStep (countRace s)
  | .sinkError => .next (sinkErrorStep (countRace s))
  | .hardReset => .next (hardResetStep (countRace s))

/-- With no turn left, the Core step is still taken if STATE = COMPUTING (weak fairness, 70_reset_and_hazards R313); the
Host and the Sink have no fairness, so in every other state the block waits (R291, R306; assumption log 1). -/
def idleTurn (s : State) : Host.Outcome State Fault Refusal :=
  if s.state = .computing then takeTurn .core s else .next s

/-- The turns of events that fall in one clock cycle, in the order the hardware serialises them (60_exceptions R264):
hardware reset, the host access, the sink error, the byte acceptance, the Core step. -/
def sameCycle (reset host sinkErr accept core : Bool) : List Turn :=
  (if reset then [Turn.hardReset] else []) ++ (if host then [Turn.host] else [])
    ++ (if sinkErr then [Turn.sinkError] else []) ++ (if accept then [Turn.sinkAccept] else [])
    ++ (if core then [Turn.core] else [])

/-- The next turn of the schedule, or the idle turn (20_memory R82). -/
def runSchedule (s : State) : Host.Outcome State Fault Refusal :=
  match s.schedule with
  | [] => idleTurn s
  | t :: rest => takeTurn t { s with schedule := rest }

/-- The state whose next turn is the Host's and whose next host access writes the word `w` to CMD (30_encoding R100); every
later turn and access follows it unchanged. -/
def pushCommand (w : Word) (s : State) : State :=
  { s with hostProgram := .write (regOffset .cmd) w :: s.hostProgram, schedule := .host :: s.schedule }

/-- The machine at reset with a host program and a schedule loaded by the platform (assumption log 2). It takes lines outside
the syntax of 30_encoding R107 and R108 too (DESIGN CHOICE, assumption log 15). -/
def boot (program : List HostLine) (turns : List Turn) : State :=
  { State.reset with hostProgram := expandProgram program, schedule := turns }

end Sys2Proof.Machine
end

