-- ==== Sys2Proof/Machine/Step.lean ====
section
/-! DEFINITION. The step of the machine: one turn of one agent (00_scope R13, 20_memory R82). -/

namespace Sys2Proof.Machine

/-- One step. -/
def step (s : State) : Host.Outcome State Fault Refusal := runSchedule s

/-- `s` with the command word of the table's bits as the next host access, and the Host's turn next (assumption log 2, 14). -/
def State.withFetchWord (s : State) (nbits w : Nat) : State := pushCommand (tableWord nbits w) s

end Sys2Proof.Machine
end

