-- ==== Sys2Proof/Machine/Ports.lean ====
section
/-! DEFINITION. The outputs of the block that are functions of its state, not state (20_memory R70, 10_state R51): the
stream offer; the `irq` level stands in Machine/Flags.lean. And how a consumer reads a stream (20_memory R73). -/

namespace Sys2Proof.Machine

/-- `s_valid`: 1 exactly while STATE = EMITTING (42_emission R192). -/
def sValid (s : State) : Bool := s.state == .emitting

/-- `s_data` and `s_last` while `s_valid = 1`; nothing is offered in any other state (42_emission R192, 10_state R53). -/
def streamOffer (s : State) : Option (Byte × Bool) :=
  if sValid s then some (streamByte (waveform s) s.pos.toNat, isLast (waveform s) s.pos.toNat) else none

/-- The bytes of a record, without the side-band events (20_memory R73: the flags are not bytes). -/
def bytesOf (record : List StreamEvent) : List Byte :=
  record.filterMap fun e =>
    match e with
    | .byte b _ => some b
    | .abort => none

/-- The (I, Q) pairs a consumer reads from a byte stream (20_memory R73); an odd last byte is half a pair and is dropped
(42_emission R202: such a stream is incomplete). -/
def samplePairs : List Byte → List (Byte × Byte)
  | i :: q :: rest => (i, q) :: samplePairs rest
  | [_] => []
  | [] => []

/-- A terminator of a stream: the final byte with `s_last = 1`, or the abort marker (42_emission R197). -/
def isTerminator : StreamEvent → Bool
  | .byte _ last => last
  | .abort => true

end Sys2Proof.Machine
end

