-- ==== Sys2Proof/Safety.lean ====
section
/-! DEFINITION. What counts as a safe run, in the terms the claims use: the invariant of the block, the invariant of the
stream, what a run may change, and when a run has ended. -/

namespace Sys2Proof.Machine

/-- The registers are consistent with one another, as 10_state R24, R27 and R37 and 42_emission R190 say they always are. -/
structure BlockInv (s : State) : Prop where
  /-- ERR_CAUSE.CODE is nonzero exactly in ERROR (10_state R27) -/
  cause : s.errCause ≠ .none ↔ s.state = .error
  /-- START_PENDING is 0 outside COMPUTING (10_state R24) -/
  pending : s.startPending = true → s.state = .computing
  /-- COMPUTE and START clear COUNTS_VALID and nothing sets it before the Core step (10_state R37) -/
  computing : s.state = .computing → s.countsValid = false
  /-- a START clears EMIT_BYTES and no byte is accepted before EMITTING (41_synthesis R176) -/
  startAtZero : s.startPending = true → s.pos = 0
  /-- while EMITTING the counts are those of the configuration and `pos < 2 * tot` (42_emission R190) -/
  emitting : s.state = .emitting → s.countsValid = true ∧ s.pos.toNat < 2 * s.counts.totalSamples.toNat
  /-- COUNTS_VALID says that the result registers hold a successful computation on the configuration (10_state R24) -/
  valid : s.countsValid = true → ∃ r, quantizeState s = .result r ∧ s.counts = storeCounts r

/-- The bytes of the current emission accepted so far, as events (42_emission R199). -/
def streamedSoFar (s : State) : List StreamEvent :=
  (List.range s.pos.toNat).map fun p => .byte (streamByte (waveform s) p) false

/-- While EMITTING, the sink's record ends with exactly the first `pos` bytes of the stream, none of them marked last
(42_emission R199, 20_memory R81). -/
def StreamInv (s : State) : Prop :=
  s.state = .emitting → ∃ before, s.sinkRecord = before ++ streamedSoFar s

/-- The events of a complete stream (42_emission R199). -/
def completeStream (w : Waveform) : List StreamEvent :=
  (List.range (2 * w.totalSamples)).map fun p => .byte (streamByte w p) (isLast w p)

/-- The configuration registers (10_state R36). -/
def sameConfig (s t : State) : Prop :=
  t.onLevel = s.onLevel ∧ t.sampleRate = s.sampleRate ∧ t.pwNs = s.pwNs ∧ t.priNs = s.priNs
    ∧ t.pulseCount = s.pulseCount ∧ t.burstPeriodNs = s.burstPeriodNs ∧ t.minDurationNs = s.minDurationNs

/-- The state with its flags DONE, ABORTED, REJECTED and its IRQ_EN replaced (43_control R224). -/
def setFlags (d a r : Bool) (e : BitVec 4) (s : State) : State :=
  { s with done := d, aborted := a, rejected := r, irqEn := e }

/-- The block's registers alone, the environment data taken out (70_reset_and_hazards R315). -/
def blockOf (s : State) : State :=
  { s with hostProgram := [], schedule := [], hostReads := [], sinkRecord := [], raceStep := 0 }

/-- The next turn of the schedule is `t`. -/
def nextTurnIs (s : State) (t : Turn) : Prop := ∃ turns, s.schedule = t :: turns

/-- The next step is the Core's: its turn comes, or no turn is left and the Core is due (assumption log 1). -/
def nextIsCore (s : State) : Prop := s.schedule = [] ∨ nextTurnIs s .core

/-- The next turn is the Host's and `op` is what it does. -/
def nextAccessIs (s : State) (op : HostOp) : Prop := nextTurnIs s .host ∧ ∃ rest, s.hostProgram = op :: rest

/-- The next step is a host write of a word to CMD that decodes to `i` (30_encoding R100). -/
def nextIsCommand (s : State) (i : Instr) : Prop :=
  ∃ w, nextAccessIs s (.write (regOffset .cmd) w) ∧ decode w = .command i

/-- A run of a host program has ended: the host has performed its last access and STATE is IDLE or ERROR
(70_reset_and_hazards R315). -/
def runEnded (s : State) : Prop := s.hostProgram = [] ∧ (s.state = .idle ∨ s.state = .error)

/-- The rows of the table of 60_exceptions R255 that change STATE, each with the event that makes it. -/
inductive ListedTransition (s t : State) : Prop where
  | badPattern (d i : Byte) (e : nextIsCommand s (.loadPattern d i)) (x : domainOf d = none ∨ indexOf i = none)
      (a : s.state = .idle) (b : t.state = .error)
  | compute (e : nextIsCommand s .compute) (a : s.state = .idle) (b : t.state = .computing) (p : t.startPending = false)
  | start (e : nextIsCommand s .start) (a : s.state = .idle) (b : t.state = .computing) (p : t.startPending = true)
  | computed (r : QuantResult) (e : nextIsCore s) (x : quantizeState s = .result r) (a : s.state = .computing)
      (p : s.startPending = false) (b : t.state = .idle)
  | started (r : QuantResult) (e : nextIsCore s) (x : quantizeState s = .result r) (a : s.state = .computing)
      (p : s.startPending = true) (b : t.state = .emitting)
  | failed (c : Cause) (e : nextIsCore s) (x : quantizeState s = .error c) (a : s.state = .computing)
      (b : t.state = .error)
  | cancelled (e : nextIsCommand s .abort) (a : s.state = .computing) (b : t.state = .idle)
  | completed (e : nextTurnIs s .sinkAccept) (x : isLast (waveform s) s.pos.toNat = true) (a : s.state = .emitting)
      (b : t.state = .idle) (d : t.done = true)
  | sinkFailed (e : nextTurnIs s .sinkError) (a : s.state = .emitting) (b : t.state = .error)
  | aborted (e : nextIsCommand s .abort) (a : s.state = .emitting) (b : t.state = .idle)
  | cleared (e : nextIsCommand s .clear) (a : s.state = .error) (b : t.state = .idle)
  | reset (e : nextIsCommand s .reset) (b : t.state = .idle)
  | hardReset (e : nextTurnIs s .hardReset) (b : t.state = .idle)

end Sys2Proof.Machine
end

