-- ==== Sys2Proof/Certificates/Slice0/Obligations.lean ====
section
/-! DEFINITION. The statements for the provers. Each docstring says which rule of spec/ it formalises, or that it is
derived, or that a clause rests on a choice of the model and on which log entry. -/

open Sys2Proof Sys2Proof.Machine

/-! ## Encoding -/

/-- 30_encoding R110: every row of the table of words, and what the two words it marks as raising do in IDLE. -/
def Obligations.DecodesTheWrittenWords : Prop :=
  decode 0x00000000 = .command .nop ∧
  decode 0x00010001 = .command (.loadPattern 0 1) ∧
  decode 0x00040001 = .command (.loadPattern 0 4) ∧
  decode 0x00020101 = .command (.loadPattern 1 2) ∧
  decode 0x00050101 = .command (.loadPattern 1 5) ∧
  decode 0x00010201 = .command (.loadPattern 2 1) ∧
  decode 0x00000002 = .command .compute ∧
  decode 0x00000003 = .command .start ∧
  decode 0x00000004 = .command .abort ∧
  decode 0x00000005 = .command .clear ∧
  decode 0x00000006 = .command .reset ∧
  decode 0x01000003 = .illegal .reservedField ∧
  decode 0x00000103 = .illegal .operandNotZero ∧
  decode 0x00000007 = .illegal .reservedOpcode ∧
  decode 0x000000FF = .illegal .reservedOpcode ∧
  (∀ s : State, s.state = .idle →
    exec (.loadPattern 1 5) s = .next { s with startPending := false, errCause := .cfgBadIndex, state := .error }) ∧
  (∀ s : State, s.state = .idle →
    exec (.loadPattern 2 1) s = .next { s with startPending := false, errCause := .cfgBadDomain, state := .error })

/-- Derived from 30_encoding R101 to R104: decoding the word of any legal command gives the command back, every operand at every
value. -/
def Obligations.DecodeOfEncodeIsTheCommand : Prop :=
  ∀ i : Instr, i.wellFormed = true →
    decode (encode i) = .command i ∧ decodeTableWord 32 (encode i).toNat = some i

/-- Derived from 30_encoding R104 and R106, the other direction: a word that decodes to a command is that command's one word. -/
def Obligations.EachCommandHasOneWord : Prop :=
  ∀ (w : Word) (i : Instr), decode w = .command i → w = encode i

/-- 30_encoding R105: which words are illegal, what writing one to CMD does in every state, and that NOP is the only
command that does nothing in every state. -/
def Obligations.IllegalWordsAreExactlyThese : Prop :=
  (∀ w : Word, (∃ why, decode w = .illegal why) ↔
    (w.extractLsb' 24 8 ≠ 0#8 ∨ 0x07 ≤ (w.extractLsb' 0 8).toNat ∨
      ((w.extractLsb' 0 8 = 0x00#8 ∨ (0x02 ≤ (w.extractLsb' 0 8).toNat ∧ (w.extractLsb' 0 8).toNat ≤ 0x06)) ∧
        w.extractLsb' 8 16 ≠ 0#16))) ∧
  (∀ (w : Word) (why : IllegalWord), decode w = .illegal why →
    ∀ s : State, memWrite 0x04 w s = .next { s with rejected := true }) ∧
  (∀ i : Instr, (∀ s : State, exec i s = .next s) ↔ i = .nop)

/-- Derived from 30_encoding R102: the match and mask table agrees with the decoder on every word, no two rows select one
word, and no command lacks its row. -/
def Obligations.MatchAndMaskAgreeWithTheDecoder : Prop :=
  (∀ w : Word, ∀ row ∈ opcodeRows,
    row.selects w = true ↔ ∃ i, decode w = .command i ∧ mnemonicOf i = row.mnemonic) ∧
  (∀ w : Word, ∀ r1 ∈ opcodeRows, ∀ r2 ∈ opcodeRows, r1.selects w = true → r2.selects w = true → r1 = r2) ∧
  (∀ (w : Word) (i : Instr), decode w = .command i → ∃ row ∈ opcodeRows, row.selects w = true)

/-- Derived from 30_encoding R107 to R109 and 10_state R23: `cmd LOAD_PATTERN d, i` written with numbers below 256 is the
access of the command itself; the accesses of every other line but `wr64` and `rd64` (which are `Wr64WritesBothHalves`); the
offset each of the 32 register names denotes; the lines of a program in order. A polling loop is one host operation of the
model (assumption log 4), which `PollingRoundsReadStatus` says the rounds of. Where a clause takes in a line outside the
syntax (a number of `wr` or `w1c` from 2^32 on, `cmd` with LOAD_PATTERN as a command), it says the model's choice there and no
rule of the spec (assumption log 15). -/
def Obligations.HostLinesExpandToTheirAccesses : Prop :=
  (∀ dom idx : Nat, (HostLine.cmdLoadPattern dom idx).wellFormed = true →
    expandLine (.cmdLoadPattern dom idx) =
      [.write 0x04 (encode (.loadPattern (BitVec.ofNat 8 dom) (BitVec.ofNat 8 idx)))]) ∧
  (∀ row ∈ [(Reg.id, 0x00), (.cmd, 0x04), (.status, 0x08), (.errCause, 0x0C), (.irqEn, 0x10), (.onLevel, 0x14),
            (.sampleRateHz, 0x18), (.pwNs, 0x1C), (.priNs, 0x20), (.pulseCount, 0x24), (.burstPeriodNsLo, 0x28),
            (.burstPeriodNsHi, 0x2C), (.minDurationNsLo, 0x30), (.minDurationNsHi, 0x34), (.pulseSamples, 0x40),
            (.priSamples, 0x44), (.padSamplesLo, 0x48), (.padSamplesHi, 0x4C), (.totalBurstSamplesLo, 0x50),
            (.totalBurstSamplesHi, 0x54), (.burstCountLo, 0x58), (.burstCountHi, 0x5C), (.totalSamplesLo, 0x60),
            (.totalSamplesHi, 0x64), (.totalBurstTimeNsLo, 0x68), (.totalBurstTimeNsHi, 0x6C),
            (.effectiveCycleNsLo, 0x70), (.effectiveCycleNsHi, 0x74), (.padTimeNsLo, 0x78), (.padTimeNsHi, 0x7C),
            (.emitBytesLo, 0x80), (.emitBytesHi, 0x84)],
    expandLine (.rd row.1) = [.read row.2] ∧ regOffset row.1 = row.2 ∧
    ∀ n : Nat, expandLine (.wr row.1 n) = [.write row.2 (BitVec.ofNat 32 n)]) ∧
  (∀ i : Instr, expandLine (.cmd i) = [.write 0x04 (encode i)]) ∧
  (∀ mask : Nat, expandLine (.w1c mask) = [.write 0x08 (BitVec.ofNat 32 mask)]) ∧
  (∀ name : String, expandLine (.label name) = []) ∧
  expandLine .waitNotBusy = [.waitNotBusy] ∧ expandLine .waitCompute = [.waitCompute] ∧
  domainSymbol .etsi = 0 ∧ domainSymbol .fcc = 1 ∧
  (∀ (line : HostLine) (lines : List HostLine),
    expandProgram [] = [] ∧ expandProgram (line :: lines) = expandLine line ++ expandProgram lines)

/-- Derived from 30_encoding R108: `wr64` writes the two halves of its number, LO first, so that after both the 64-bit register holds
it; `rd64` reads LO first. Stated for BURST_PERIOD_NS and MIN_DURATION_NS, the registers `wr64` may name. -/
def Obligations.Wr64WritesBothHalves : Prop :=
  ∀ (v : Nat) (s : State), v < 2 ^ 64 → busy s = false →
    (∃ w1 w2, expandLine (.wr64 .burstPeriodNs v) = [.write 0x28 w1, .write 0x2C w2] ∧
      ∃ t u, memWrite 0x28 w1 s = .next t ∧ memWrite 0x2C w2 t = .next u ∧
        u = { s with burstPeriodNs := BitVec.ofNat 64 v, countsValid := false }) ∧
    (∃ w1 w2, expandLine (.wr64 .minDurationNs v) = [.write 0x30 w1, .write 0x34 w2] ∧
      ∃ t u, memWrite 0x30 w1 s = .next t ∧ memWrite 0x34 w2 t = .next u ∧
        u = { s with minDurationNs := BitVec.ofNat 64 v, countsValid := false }) ∧
    (∀ r : Reg64, expandLine (.rd64 r) = [.read (regOffset (loReg r)), .read (regOffset (hiReg r))]) ∧
    (∀ row ∈ [(Reg64.burstPeriodNs, 0x28, 0x2C), (.minDurationNs, 0x30, 0x34), (.padSamples, 0x48, 0x4C),
              (.totalBurstSamples, 0x50, 0x54), (.burstCount, 0x58, 0x5C), (.totalSamples, 0x60, 0x64),
              (.totalBurstTimeNs, 0x68, 0x6C), (.effectiveCycleNs, 0x70, 0x74), (.padTimeNs, 0x78, 0x7C),
              (.emitBytes, 0x80, 0x84)],
      expandLine (.rd64 row.1) = [.read row.2.1, .read row.2.2])

/-! ## Acceptance and rejection -/

/-- 43_control R220: the acceptance table, the ILLEGAL row among it, that the host step that writes a command performs it,
and what a command that is not accepted does. -/
def Obligations.AcceptanceTable : Prop :=
  (∀ p : RunState, accepted .nop p = true ∧ accepted .abort p = true ∧ accepted .reset p = true) ∧
  (∀ (d i : Byte) (p : RunState), accepted (.loadPattern d i) p = true ↔ p = .idle) ∧
  (∀ p : RunState, accepted .compute p = true ↔ p = .idle) ∧
  (∀ p : RunState, accepted .start p = true ↔ p = .idle) ∧
  (∀ p : RunState, accepted .clear p = true ↔ (p = .idle ∨ p = .error)) ∧
  (∀ (i : Instr) (s : State), accepted i s.state = false → exec i s = .next { s with rejected := true }) ∧
  (∀ (w : Word) (i : Instr) (s : State), decode w = .command i → memWrite 0x04 w s = exec i s) ∧
  (∀ (w : Word) (why : IllegalWord) (s : State), decode w = .illegal why →
    memWrite 0x04 w s = .next { s with rejected := true })

/-- 43_control R221: the accesses that reject are exactly those it lists; such an access sets REJECTED and nothing else,
and no other access sets it. -/
def Obligations.RejectingAccessesAreExactlyThese : Prop :=
  (∀ (addr : Byte) (v : Word) (s : State),
    (misaligned addr = true ∨
      (addr = 0x04 ∧ ∃ why, decode v = .illegal why) ∨
      (addr = 0x04 ∧ ∃ i, decode v = .command i ∧ accepted i s.state = false) ∨
      (∃ r, addr = regOffset r ∧ isConfig r = true ∧ busy s = true)) →
    memWrite addr v s = .next { s with rejected := true }) ∧
  (∀ (addr : Byte) (v : Word) (s t : State), memWrite addr v s = .next t → s.rejected = false → t.rejected = true →
    (misaligned addr = true ∨
      (addr = 0x04 ∧ ∃ why, decode v = .illegal why) ∨
      (addr = 0x04 ∧ ∃ i, decode v = .command i ∧ accepted i s.state = false) ∨
      (∃ r, addr = regOffset r ∧ isConfig r = true ∧ busy s = true))) ∧
  (∀ (addr : Byte) (s : State), misaligned addr = true → memReadState addr s = { s with rejected := true }) ∧
  (∀ (addr : Byte) (s : State), misaligned addr = false → (memReadState addr s).rejected = s.rejected)

/-! ## The commands -/

/-- 43_control R225: NOP. Which of the other words with OP 0 are illegal is `IllegalWordsAreExactlyThese`. -/
def Obligations.NopHasNoEffect : Prop :=
  (∀ w : Word, decode w = .command .nop ↔ w = 0x00000000) ∧
  (∀ s : State, exec .nop s = .next s) ∧
  (∀ s : State, memWrite 0x04 0x00000100 s = .next { s with rejected := true })

/-- 40_pattern R130, R131 and R133: LOAD_PATTERN, its encoding, its eight profiles (times in microseconds, held in
nanoseconds), its two errors with the domain checked first, and its rejection outside IDLE. -/
def Obligations.LoadPatternLoadsOrRaises : Prop :=
  (∀ (w : Word) (d i : Byte), decode w = .command (.loadPattern d i) ↔
    (w &&& 0xFF0000FF = 0x00000001 ∧ d = w.extractLsb' 8 8 ∧ i = w.extractLsb' 16 8)) ∧
  (∀ s : State, s.state = .idle →
    (∀ row ∈ [(0, 1, 1, 1428, 18), (0, 2, 3, 1667, 10), (0, 3, 12, 1111, 15), (0, 4, 25, 333, 20),
              (1, 1, 1, 1428, 18), (1, 2, 3, 190, 26), (1, 3, 8, 350, 17), (1, 4, 16, 350, 14)],
      exec (.loadPattern (BitVec.ofNat 8 row.1) (BitVec.ofNat 8 row.2.1)) s =
        .next { s with
          pwNs := BitVec.ofNat 32 (1000 * row.2.2.1)
          priNs := BitVec.ofNat 32 (1000 * row.2.2.2.1)
          pulseCount := BitVec.ofNat 32 row.2.2.2.2
          countsValid := false }) ∧
    (∀ d i : Byte, 2 ≤ d.toNat →
      exec (.loadPattern d i) s = .next { s with startPending := false, errCause := .cfgBadDomain, state := .error }) ∧
    (∀ d i : Byte, d.toNat ≤ 1 → (i.toNat = 0 ∨ 5 ≤ i.toNat) →
      exec (.loadPattern d i) s = .next { s with startPending := false, errCause := .cfgBadIndex, state := .error })) ∧
  (∀ (d i : Byte) (s : State), s.state ≠ .idle → exec (.loadPattern d i) s = .next { s with rejected := true })

/-- 41_synthesis R175: COMPUTE, and that the computation it starts emits nothing and keeps DONE, ABORTED, REJECTED and
EMIT_BYTES; the counts of the rule's example. -/
def Obligations.ComputeEntersComputing : Prop :=
  (∀ w : Word, decode w = .command .compute ↔ w = 0x00000002) ∧
  (∀ s : State, s.state = .idle →
    ∃ t, exec .compute s = .next t ∧
      t = { s with countsValid := false, startPending := false, state := .computing } ∧
      (coreStep t).sinkRecord = s.sinkRecord ∧ (coreStep t).state ≠ .emitting ∧ (coreStep t).pos = s.pos ∧
      (coreStep t).done = s.done ∧ (coreStep t).aborted = s.aborted ∧ (coreStep t).rejected = s.rejected ∧
      (∀ c, quantizeState s = .error c → (coreStep t).errCause = c ∧ (coreStep t).state = .error) ∧
      (∀ r, quantizeState s = .result r → (coreStep t).counts = storeCounts r ∧ (coreStep t).state = .idle ∧
        (coreStep t).countsValid = true)) ∧
  (∀ s : State, s.state ≠ .idle → exec .compute s = .next { s with rejected := true }) ∧
  (∃ r, quantize 10000000 1000 1428000 18 (10 ^ 9) (10 ^ 9) = .result r ∧
    r.pulseSamples = 10 ∧ r.priSamples = 14280 ∧ r.padSamples = 9742960)

/-- Derived from 41_synthesis R176: START, and that a START whose computation fails emits no byte and leaves the abort marker alone on
the stream. The example run of R176 is `EndToEndStart`. -/
def Obligations.StartEntersComputing : Prop :=
  (∀ w : Word, decode w = .command .start ↔ w = 0x00000003) ∧
  (∀ s : State, s.state = .idle →
    ∃ t, exec .start s = .next t ∧
      t = { s with
            countsValid := false
            done := false
            aborted := false
            pos := 0
            startPending := true
            state := .computing } ∧
      (∀ c, quantizeState s = .error c →
        coreStep t = { t with
          startPending := false
          errCause := c
          state := .error
          sinkRecord := s.sinkRecord ++ [.abort] }) ∧
      (∀ r, quantizeState s = .result r →
        coreStep t = { t with
          startPending := false
          countsValid := true
          counts := storeCounts r
          state := .emitting })) ∧
  (∀ s : State, s.state ≠ .idle → exec .start s = .next { s with rejected := true })

/-- 43_control R226: ABORT in each STATE. -/
def Obligations.AbortEndsTheOperation : Prop :=
  (∀ w : Word, decode w = .command .abort ↔ w = 0x00000004) ∧
  (∀ s : State, s.state = .idle → exec .abort s = .next s) ∧
  (∀ s : State, s.state = .error → exec .abort s = .next s) ∧
  (∀ s : State, s.state = .computing →
    exec .abort s = .next { s with
      startPending := false
      state := .idle
      aborted := true
      sinkRecord := s.sinkRecord ++ (if s.startPending then [.abort] else []) }) ∧
  (∀ s : State, s.state = .emitting →
    exec .abort s = .next { s with state := .idle, aborted := true, sinkRecord := s.sinkRecord ++ [.abort] })

/-- 43_control R227: CLEAR acknowledges an error and restores nothing else; in IDLE it has no effect (ERR_CAUSE is already
0 there, 10_state R27); it is rejected while busy. -/
def Obligations.ClearAcknowledgesTheError : Prop :=
  (∀ w : Word, decode w = .command .clear ↔ w = 0x00000005) ∧
  (∀ s : State, s.state = .error → exec .clear s = .next { s with errCause := .none, state := .idle }) ∧
  (∀ s : State, s.state = .idle → exec .clear s = .next { s with errCause := .none }) ∧
  (∀ s : State, BlockInv s → s.state = .idle → exec .clear s = .next s) ∧
  (∀ s : State, s.state = .computing ∨ s.state = .emitting → exec .clear s = .next { s with rejected := true })

/-- Derived from 43_control R228: the RESET command leaves every register at its reset value and `irq` low, and signals the
abort marker for an emission it ends. The last line is the model's choice and no rule of the spec: the host's program, the
schedule and the host's reads stay (assumption log 3), and so does the model's counter (assumption log 5). -/
def Obligations.ResetCommandRestoresResetState : Prop :=
  (∀ w : Word, decode w = .command .reset ↔ w = 0x00000006) ∧
  (∀ s : State, ∃ t, exec .reset s = .next t ∧ blockOf t = blockOf State.reset ∧ irq t = false ∧
    t.sinkRecord = s.sinkRecord ++
      (if s.state = .emitting ∨ (s.state = .computing ∧ s.startPending = true) then [.abort] else []) ∧
    t.hostProgram = s.hostProgram ∧ t.schedule = s.schedule ∧ t.hostReads = s.hostReads ∧ t.raceStep = s.raceStep)

/-- Derived from 43_control R220, R221 and R224 to R228 and 41_synthesis R176: the effect of a command on everything but
DONE, ABORTED, REJECTED and IRQ_EN is the same whatever those hold, and each of the four ends as a constant the rules give
or as it was: no command reads one to write another. -/
def Obligations.CommandsReadNoFlags : Prop :=
  (∀ (i : Instr) (d a r : Bool) (e : BitVec 4) (s t : State), exec i s = .next t →
    ∃ t', exec i (setFlags d a r e s) = .next t' ∧ setFlags d a r e t' = setFlags d a r e t) ∧
  (∀ (i : Instr) (s t : State), exec i s = .next t →
    t.done = (if i = .reset ∨ (i = .start ∧ s.state = .idle) then false else s.done) ∧
    t.aborted =
      (if i = .reset ∨ (i = .start ∧ s.state = .idle) then false
       else if i = .abort ∧ (s.state = .computing ∨ s.state = .emitting) then true
       else s.aborted) ∧
    t.rejected = (if i = .reset then false else if accepted i s.state = true then s.rejected else true) ∧
    t.irqEn = (if i = .reset then 0#4 else s.irqEn))

/-! ## Quantization and the Core step -/

/-- 00_scope R10: `rhu` is round half up. -/
def Obligations.RhuRoundsHalfUp : Prop :=
  ∀ a b : Nat, 0 < b →
    rhu a b = (2 * a + b) / (2 * b) ∧ ((rhu a b : Nat) : Int) = Int.floor ((a : ℚ) / (b : ℚ) + 1 / 2)

/-- 41_synthesis R151, R161 and R162: which error `quantize` returns, in which order, and the result otherwise; a misfit in
time is a misfit in samples at every rate, so the order changes only the code. -/
def Obligations.QuantizeChecksInOrder : Prop :=
  ∀ fs pw pri n bp md : Nat,
    let ps := rhu (pw * fs) (10 ^ 9)
    let rs := rhu (pri * fs) (10 ^ 9)
    let tbt := n * pri
    let ecy := max bp tbt
    let pads := max 0 (rhu ((ecy - tbt) * fs) (10 ^ 9))
    let tbs := n * rs + pads
    let bc := max 1 (md / ecy)
    let q := quantize fs pw pri n bp md
    let cfg := fs ≠ 0 ∧ n ≠ 0 ∧ pw < pri ∧ ps < rs
    let fits := rs ≤ 2 ^ 32 - 1 ∧ pads ≤ 2 ^ 64 - 1 ∧ tbs ≤ 2 ^ 64 - 1
    (pri ≤ pw → rs ≤ ps) ∧
    (q = .error .cfgRateZero ↔ fs = 0) ∧
    (q = .error .cfgCountZero ↔ fs ≠ 0 ∧ n = 0) ∧
    (q = .error .cfgPwGePri ↔ fs ≠ 0 ∧ n ≠ 0 ∧ pri ≤ pw) ∧
    (q = .error .cfgNoFit ↔ fs ≠ 0 ∧ n ≠ 0 ∧ pw < pri ∧ rs ≤ ps) ∧
    (q = .error .ovfSegment ↔ cfg ∧ ¬ fits) ∧
    (q = .error .ovfTotal ↔ cfg ∧ fits ∧ tbs * bc > 2 ^ 63 - 1) ∧
    (∀ r : QuantResult, q = .result r ↔ cfg ∧ fits ∧ tbs * bc ≤ 2 ^ 63 - 1 ∧
      r = { pulseSamples := ps, priSamples := rs, padSamples := pads, totalBurstSamples := tbs, burstCount := bc,
            totalSamples := tbs * bc, totalBurstTime := tbt, effectiveCycle := ecy, padTime := ecy - tbt })

/-- 41_synthesis R177: the laws of every successful computation. -/
def Obligations.SuccessfulComputationLaws : Prop :=
  ∀ (fs pw pri n bp md : Nat) (r : QuantResult), quantize fs pw pri n bp md = .result r →
    0 ≤ r.padSamples ∧ r.totalBurstTime ≤ r.effectiveCycle ∧ r.pulseSamples < r.priSamples ∧
    1 ≤ r.burstCount ∧ r.burstCount * r.effectiveCycle ≤ max md r.effectiveCycle ∧
    (r.effectiveCycle ≤ md → md < (r.burstCount + 1) * r.effectiveCycle) ∧
    r.totalSamples = (n * r.priSamples + r.padSamples) * r.burstCount ∧ 1 ≤ r.totalSamples

/-- 41_synthesis R164, R165, R169, R170 and R171, derived: every value of a successful computation fits its register, so
the registers hold it exactly. -/
def Obligations.ResultsFitTheirRegisters : Prop :=
  ∀ (s : State) (r : QuantResult), quantizeState s = .result r →
    (storeCounts r).pulseSamples.toNat = r.pulseSamples ∧
    (storeCounts r).priSamples.toNat = r.priSamples ∧
    (storeCounts r).padSamples.toNat = r.padSamples ∧
    (storeCounts r).totalBurstSamples.toNat = r.totalBurstSamples ∧
    (storeCounts r).burstCount.toNat = r.burstCount ∧
    (storeCounts r).totalSamples.toNat = r.totalSamples ∧
    (storeCounts r).totalBurstTimeNs.toNat = r.totalBurstTime ∧
    (storeCounts r).effectiveCycleNs.toNat = r.effectiveCycle ∧
    (storeCounts r).padTimeNs.toNat = r.padTime ∧
    2 * (storeCounts r).totalSamples.toNat ≤ 2 ^ 64 - 2

/-- Derived from 41_synthesis R160: the Core step, whatever turn it is taken at. The fairness clause of R160 is
`DueCoreStepIsTaken`. -/
def Obligations.CoreStepWritesAllOrRaises : Prop :=
  (∀ s : State, s.state ≠ .computing → coreStep s = s) ∧
  (∀ (s : State) (c : Cause), s.state = .computing → quantizeState s = .error c →
    coreStep s = { s with
      startPending := false
      errCause := c
      state := .error
      sinkRecord := s.sinkRecord ++ (if s.startPending then [.abort] else []) }) ∧
  (∀ (s : State) (r : QuantResult), s.state = .computing → quantizeState s = .result r →
    coreStep s = { s with
      counts := storeCounts r
      countsValid := true
      startPending := false
      state := if s.startPending then .emitting else .idle }) ∧
  (∀ (s : State) (turns : List Turn), s.schedule = .core :: turns →
    step s = .next (coreStep { s with schedule := turns, raceStep := s.raceStep + 1 }))

/-- Derived from 70_reset_and_hazards R313 (weak fairness of the Core); that the Core step comes when no turn is left is the
model's choice (assumption log 1). In every other state the block then waits. -/
def Obligations.DueCoreStepIsTaken : Prop :=
  ∀ s : State, s.schedule = [] →
    (s.state = .computing → step s = .next (coreStep { s with raceStep := s.raceStep + 1 })) ∧
    (s.state ≠ .computing → step s = .next s)

/-! ## Errors and the interrupt -/

/-- 60_exceptions R256: error entry, and that it never overwrites an earlier code. -/
def Obligations.RaiseErrorEntersError : Prop :=
  (∀ (c : Cause) (s : State),
    raiseError c s = { s with
      startPending := false
      errCause := c
      state := .error
      sinkRecord := s.sinkRecord ++
        (if s.state = .emitting ∨ (s.state = .computing ∧ s.startPending = true) then [.abort] else []) }) ∧
  (∀ s t : State, BlockInv s → step s = .next t → t.errCause ≠ s.errCause → t.errCause ≠ .none →
    s.errCause = .none ∧ (s.state = .idle ∨ s.state = .computing ∨ s.state = .emitting) ∧ t.state = .error)

/-- Derived from 60_exceptions R254, R257 and R258: in ERROR nothing but CLEAR, RESET or a hardware reset changes STATE or
ERR_CAUSE, and no step puts anything on the stream. -/
def Obligations.ErrorsPersistUntilAcknowledged : Prop :=
  ∀ s t : State, s.state = .error → step s = .next t →
    t.sinkRecord = s.sinkRecord ∧
    (¬ nextIsCommand s .clear → ¬ nextIsCommand s .reset → ¬ nextTurnIs s .hardReset →
      t.state = .error ∧ t.errCause = s.errCause)

/-- 42_emission R198: `sink_err` while EMITTING, and in any other state. -/
def Obligations.SinkErrorEndsTheEmission : Prop :=
  (∀ s : State, s.state = .emitting →
    sinkErrorStep s = { s with
      startPending := false
      errCause := .ioSink
      state := .error
      sinkRecord := s.sinkRecord ++ [.abort] }) ∧
  (∀ s : State, s.state ≠ .emitting → sinkErrorStep s = s) ∧
  (∀ (s : State) (turns : List Turn), s.schedule = .sinkError :: turns →
    step s = .next (sinkErrorStep { s with schedule := turns, raceStep := s.raceStep + 1 }))

/-- 60_exceptions R260 and 10_state R28: the interrupt level, read from the STATUS and IRQ_EN words the host sees; IRQ_EN
is written in every state and keeps its low four bits. -/
def Obligations.IrqIsTheMaskedStatus : Prop :=
  State.reset.irqEn = 0 ∧
  ∀ s : State, irq s =
    (((memReadValue 0x08 s).getLsbD 4 && (memReadValue 0x10 s).getLsbD 0) ||
     ((memReadValue 0x08 s).getLsbD 7 && (memReadValue 0x10 s).getLsbD 1) ||
     ((memReadValue 0x08 s).getLsbD 5 && (memReadValue 0x10 s).getLsbD 2) ||
     ((memReadValue 0x08 s).getLsbD 6 && (memReadValue 0x10 s).getLsbD 3)) ∧
    ∀ v : Word, ∃ t, memWrite 0x10 v s = .next t ∧ t = { s with irqEn := v.extractLsb' 0 4 } ∧
      memReadValue 0x10 t = v &&& 0x0000000F

/-! ## Emission -/

/-- 42_emission R191 and R193: the sample sequence and its bytes. -/
def Obligations.StreamBytesAreOnOffPairs : Prop :=
  ∀ (s : State) (k : Nat),
    let n := s.pulseCount.toNat
    let ps := s.counts.pulseSamples.toNat
    let rs := s.counts.priSamples.toNat
    let j := k % s.counts.totalBurstSamples.toNat
    streamByte (waveform s) (2 * k) = (if j < n * rs ∧ j % rs < ps then s.onLevel else 0x00) ∧
    streamByte (waveform s) (2 * k + 1) = 0x00

/-- 42_emission R192 and R194: the offer and the Emitter step, completion among it. In a state the invariant admits the step
never lacks a byte and `pos` does not wrap (10_state R21). -/
def Obligations.EmitterStepDeliversOneByte : Prop :=
  (∀ s : State, BlockInv s → s.state = .emitting →
    let p := s.pos.toNat
    let tot := s.counts.totalSamples.toNat
    streamOffer s = some (streamByte (waveform s) p, decide (p + 1 = 2 * tot)) ∧
    emitterStep s = .next { s with
      sinkRecord := s.sinkRecord ++ [.byte (streamByte (waveform s) p) (decide (p + 1 = 2 * tot))]
      pos := s.pos + 1
      state := if p + 1 = 2 * tot then .idle else .emitting
      done := if p + 1 = 2 * tot then true else s.done } ∧
    (s.pos + 1).toNat = p + 1) ∧
  (∀ s : State, s.state ≠ .emitting → streamOffer s = none ∧ emitterStep s = .next s) ∧
  (∀ (s : State) (turns : List Turn), s.schedule = .sinkAccept :: turns →
    step s = emitterStep { s with schedule := turns, raceStep := s.raceStep + 1 })

/-- 42_emission R195: the loop form gives the byte sequence of the closed form. -/
def Obligations.LoopFormIsTheClosedForm : Prop :=
  ∀ (bc n ps rs pads : Nat) (on : Byte), ps < rs → 1 ≤ n * rs + pads →
    loopStream bc n ps rs pads on =
      (List.range (2 * ((n * rs + pads) * bc))).map
        (streamByte
          { pulses := n, pulseSamples := ps, priSamples := rs, burstSamples := n * rs + pads,
            totalSamples := (n * rs + pads) * bc, on := on })

/-- Derived from 42_emission R196: the stream is a function of the six timing registers and ON_LEVEL. Two states that agree on them and
whose counts are valid describe the same bytes and the same length, whatever else differs. -/
def Obligations.StreamDependsOnConfigurationOnly : Prop :=
  ∀ s t : State, BlockInv s → BlockInv t → s.countsValid = true → t.countsValid = true → sameConfig s t →
    waveform s = waveform t ∧ completeStream (waveform s) = completeStream (waveform t)

/-- Derived from 42_emission R203: how many bytes of a complete stream are on, and when none is. -/
def Obligations.OnBytesOfACompleteStream : Prop :=
  ∀ (bc n ps rs pads : Nat) (on : Byte), ps < rs → 1 ≤ n * rs + pads →
    let w : Waveform :=
      { pulses := n, pulseSamples := ps, priSamples := rs, burstSamples := n * rs + pads,
        totalSamples := (n * rs + pads) * bc, on := on }
    (completeStream w).length = 2 * w.totalSamples ∧
    (on ≠ 0x00 → (List.range (2 * w.totalSamples)).countP (fun p => streamByte w p != 0x00) = bc * (n * ps)) ∧
    (on = 0x00 ∨ ps = 0 → ∀ p, streamByte w p = 0x00)

/-- Derived from 42_emission R192, R194 and R200: with a sink that accepts every byte the rest of an emission is delivered,
byte for byte, and it completes with EMIT_BYTES = 2 * TOTAL_SAMPLES. That it completes rests on assumption log 7: the
self-check R200 permits is omitted, so no SELFCHECK error can end the emission. -/
def Obligations.AcceptedEmissionCompletes : Prop :=
  ∀ (s : State) (rest : List Turn), BlockInv s → s.state = .emitting →
    s.schedule = List.replicate (2 * s.counts.totalSamples.toNat - s.pos.toNat) .sinkAccept ++ rest →
    core.run (2 * s.counts.totalSamples.toNat - s.pos.toNat) s =
      .next { s with
        state := .idle
        done := true
        pos := BitVec.ofNat 64 (2 * s.counts.totalSamples.toNat)
        sinkRecord := s.sinkRecord ++ (completeStream (waveform s)).drop s.pos.toNat
        schedule := rest
        raceStep := s.raceStep + (2 * s.counts.totalSamples.toNat - s.pos.toNat) }

/-- Derived from 41_synthesis R160, R176 and 42_emission R199, R200: from IDLE, a START whose computation succeeds, the Core
step and a sink that accepts every byte put exactly the complete stream on the sink's record. That the emission completes
rests on assumption log 7: the self-check R200 permits is omitted. -/
def Obligations.EndToEndStart : Prop :=
  ∀ (s : State) (r : QuantResult) (prog : List HostOp) (rest : List Turn),
    BlockInv s → s.state = .idle → quantizeState s = .result r →
    s.hostProgram = .write 0x04 0x00000003 :: prog →
    s.schedule = .host :: .core :: (List.replicate (2 * r.totalSamples) .sinkAccept ++ rest) →
    core.run (2 * r.totalSamples + 2) s =
      .next { s with
        hostProgram := prog
        schedule := rest
        startPending := false
        countsValid := true
        done := true
        aborted := false
        counts := storeCounts r
        pos := BitVec.ofNat 64 (2 * r.totalSamples)
        sinkRecord := s.sinkRecord ++
          completeStream
            { pulses := s.pulseCount.toNat, pulseSamples := r.pulseSamples, priSamples := r.priSamples,
              burstSamples := r.totalBurstSamples, totalSamples := r.totalSamples, on := s.onLevel }
        raceStep := s.raceStep + (2 * r.totalSamples + 1) }

/-- Derived from 42_emission R201 and 70_reset_and_hazards R313: a sink that does not accept holds the offer; no step but an
acceptance, a sink error, ABORT, RESET or a hardware reset ends or moves an emission. That a state in EMITTING stays as it
is when no turn is left is the model's choice (assumption log 1). -/
def Obligations.StalledSinkHoldsTheOffer : Prop :=
  (∀ s t : State, s.state = .emitting → step s = .next t →
    ¬ nextTurnIs s .sinkAccept → ¬ nextTurnIs s .sinkError → ¬ nextTurnIs s .hardReset →
    ¬ nextIsCommand s .abort → ¬ nextIsCommand s .reset →
    t.state = .emitting ∧ t.pos = s.pos ∧ streamOffer t = streamOffer s ∧ t.sinkRecord = s.sinkRecord) ∧
  (∀ (s : State) (k : Nat), s.state = .emitting → s.schedule = [] → core.run k s = .next s)

/-- 42_emission R197: only an accepted START begins a stream; a stream ends with exactly one terminator, the final byte
marked last at an acceptance and the abort marker at any other event, or none at all at a hardware reset; nothing is put on
the stream while none is begun. -/
def Obligations.EveryStreamEndsWithOneTerminator : Prop :=
  (∀ s t : State, step s = .next t → ¬ nextTurnIs s .hardReset →
    (streaming s = false → t.sinkRecord = s.sinkRecord ∧
      (streaming t = true ↔ s.state = .idle ∧ nextIsCommand s .start)) ∧
    (streaming s = true → streaming t = true →
      ∃ es, t.sinkRecord = s.sinkRecord ++ es ∧ ∀ e ∈ es, isTerminator e = false) ∧
    (streaming s = true → streaming t = false →
      ∃ e, t.sinkRecord = s.sinkRecord ++ [e] ∧ isTerminator e = true ∧
        (if e = .abort then ¬ nextTurnIs s .sinkAccept else nextTurnIs s .sinkAccept))) ∧
  (∀ s t : State, step s = .next t → nextTurnIs s .hardReset → t.sinkRecord = s.sinkRecord ∧ streaming t = false)

/-! ## The register window -/

/-- 10_state R26: a STATUS write. -/
def Obligations.StatusWriteClearsStickyFlags : Prop :=
  ∀ (v : Word) (s : State),
    memWrite 0x08 v s = .next { s with
      done := if v.getLsbD 4 then false else s.done
      aborted := if v.getLsbD 5 then false else s.aborted
      rejected := if v.getLsbD 6 then false else s.rejected }

/-- Derived from 10_state R24 and R27 and 60_exceptions R250: the bits a read of STATUS returns, and the word a read of
ERR_CAUSE returns for each of the eleven causes. -/
def Obligations.StatusAndErrCauseReadTheirFields : Prop :=
  (∀ s : State,
    (memReadValue 0x08 s).extractLsb' 0 2 = runStateCode s.state ∧
    (memReadValue 0x08 s).getLsbD 2 = s.countsValid ∧
    (memReadValue 0x08 s).getLsbD 3 = s.startPending ∧
    (memReadValue 0x08 s).getLsbD 4 = s.done ∧
    (memReadValue 0x08 s).getLsbD 5 = s.aborted ∧
    (memReadValue 0x08 s).getLsbD 6 = s.rejected ∧
    ((memReadValue 0x08 s).getLsbD 7 = true ↔ s.state = .error) ∧
    (memReadValue 0x08 s).extractLsb' 8 24 = 0#24 ∧
    runStateCode .idle = 0 ∧ runStateCode .computing = 1 ∧ runStateCode .emitting = 2 ∧ runStateCode .error = 3) ∧
  (∀ row ∈ [(Cause.none, 0), (.cfgBadDomain, 1), (.cfgBadIndex, 2), (.cfgRateZero, 3), (.cfgCountZero, 4),
            (.cfgPwGePri, 5), (.cfgNoFit, 6), (.ovfSegment, 7), (.ovfTotal, 8), (.ioSink, 9), (.selfcheck, 10)],
    ∀ s : State, s.errCause = row.1 → memReadValue 0x0C s = BitVec.ofNat 32 row.2)

/-- 10_state R49: the EMIT_BYTES read latch; a HI read with the latch of a LO read gives `pos` as of the LO read. -/
def Obligations.EmitBytesReadLatch : Prop :=
  State.reset.emitHiLatch = 0 ∧
  (∀ s : State, memReadValue 0x80 s = s.pos.extractLsb' 0 32 ∧
    memReadState 0x80 s = { s with emitHiLatch := s.pos.extractLsb' 32 32 } ∧
    memReadValue 0x84 s = s.emitHiLatch ∧ memReadState 0x84 s = s) ∧
  (∀ s t : State, t.emitHiLatch = (memReadState 0x80 s).emitHiLatch →
    joinHalves (memReadValue 0x84 t) (memReadValue 0x80 s) = s.pos) ∧
  (∀ s t : State, step s = .next t → t.emitHiLatch ≠ s.emitHiLatch →
    nextAccessIs s (.read 0x80) ∨ nextIsCommand s .reset ∨ nextTurnIs s .hardReset)

/-- 10_state R22 and R50: ID, reserved offsets and reserved bits. The last two clauses are parts of other rules: CMD reads 0
with no side effect (30_encoding R100), and a write to EMIT_BYTES is ignored (10_state R48). -/
def Obligations.FixedReadsAndIgnoredWrites : Prop :=
  (∀ addr : Byte, addr.toNat % 4 = 0 →
    (addr = 0x38 ∨ addr = 0x3C ∨ 0x88 ≤ addr.toNat) →
    ∀ (v : Word) (s : State), memReadValue addr s = 0 ∧ memReadState addr s = s ∧ memWrite addr v s = .next s) ∧
  (∀ s : State, (memReadValue 0x08 s).extractLsb' 8 24 = 0#24 ∧ (memReadValue 0x0C s).extractLsb' 8 24 = 0#24 ∧
    (memReadValue 0x10 s).extractLsb' 4 28 = 0#28 ∧ (memReadValue 0x14 s).extractLsb' 8 24 = 0#24) ∧
  (∀ (v v' : Word) (s : State), v.extractLsb' 0 8 = v'.extractLsb' 0 8 →
    memWrite 0x08 v s = memWrite 0x08 v' s ∧ memWrite 0x14 v s = memWrite 0x14 v' s) ∧
  (∀ (v v' : Word) (s : State), v.extractLsb' 0 4 = v'.extractLsb' 0 4 → memWrite 0x10 v s = memWrite 0x10 v' s) ∧
  (∀ (v : Word) (s : State), memWrite 0x0C v s = .next s) ∧
  (∀ (v : Word) (s : State), memReadValue 0x00 s = 0x52414452 ∧ memReadState 0x00 s = s ∧ memWrite 0x00 v s = .next s) ∧
  (∀ s : State, memReadValue 0x04 s = 0 ∧ memReadState 0x04 s = s) ∧
  (∀ (v : Word) (s : State), memWrite 0x80 v s = .next s ∧ memWrite 0x84 v s = .next s)

/-- 20_memory R74: misaligned accesses. -/
def Obligations.MisalignedAccessesReject : Prop :=
  ∀ addr : Byte, addr.toNat % 4 ≠ 0 → ∀ (v : Word) (s : State),
    memWrite addr v s = .next { s with rejected := true } ∧
    memReadValue addr s = 0 ∧ memReadState addr s = { s with rejected := true }

/-- Derived from 10_state R23 and R29 to R37: a configuration write while not busy is read back, changes no other register,
and clears COUNTS_VALID exactly when the register is a timing register; which field the write at each offset sets, and which
field a read at each offset returns, written out for the nine offsets 0x14 to 0x34. -/
def Obligations.ConfigurationWriteReadsBack : Prop :=
  (∀ (r : Reg) (v : Word) (s : State), isConfig r = true → busy s = false →
    ∃ t, memWrite (regOffset r) v s = .next t ∧
      memReadValue (regOffset r) t = (if r = .onLevel then v &&& 0x000000FF else v) ∧
      (∀ r', r' ≠ r → r' ≠ .status → memReadValue (regOffset r') t = memReadValue (regOffset r') s) ∧
      t.countsValid = (if r = .onLevel then s.countsValid else false) ∧
      t = { s with
        onLevel := t.onLevel
        sampleRate := t.sampleRate
        pwNs := t.pwNs
        priNs := t.priNs
        pulseCount := t.pulseCount
        burstPeriodNs := t.burstPeriodNs
        minDurationNs := t.minDurationNs
        countsValid := t.countsValid }) ∧
  (∀ (v : Word) (s : State), busy s = false →
    memWrite 0x14 v s = .next { s with onLevel := v.extractLsb' 0 8 } ∧
    memWrite 0x18 v s = .next { s with sampleRate := v, countsValid := false } ∧
    memWrite 0x1C v s = .next { s with pwNs := v, countsValid := false } ∧
    memWrite 0x20 v s = .next { s with priNs := v, countsValid := false } ∧
    memWrite 0x24 v s = .next { s with pulseCount := v, countsValid := false } ∧
    memWrite 0x28 v s = .next { s with
      burstPeriodNs := s.burstPeriodNs.extractLsb' 32 32 ++ v, countsValid := false } ∧
    memWrite 0x2C v s = .next { s with
      burstPeriodNs := v ++ s.burstPeriodNs.extractLsb' 0 32, countsValid := false } ∧
    memWrite 0x30 v s = .next { s with
      minDurationNs := s.minDurationNs.extractLsb' 32 32 ++ v, countsValid := false } ∧
    memWrite 0x34 v s = .next { s with
      minDurationNs := v ++ s.minDurationNs.extractLsb' 0 32, countsValid := false }) ∧
  (∀ s : State,
    memReadValue 0x14 s = s.onLevel.setWidth 32 ∧
    memReadValue 0x18 s = s.sampleRate ∧
    memReadValue 0x1C s = s.pwNs ∧
    memReadValue 0x20 s = s.priNs ∧
    memReadValue 0x24 s = s.pulseCount ∧
    memReadValue 0x28 s = s.burstPeriodNs.extractLsb' 0 32 ∧
    memReadValue 0x2C s = s.burstPeriodNs.extractLsb' 32 32 ∧
    memReadValue 0x30 s = s.minDurationNs.extractLsb' 0 32 ∧
    memReadValue 0x34 s = s.minDurationNs.extractLsb' 32 32)

/-- Derived from 10_state R23, R38 to R46 and 93_implementation_defined K16: which half of which count is read at each of
the sixteen offsets 0x40 to 0x7C; a result register reads itself when STATE is not COMPUTING; while COMPUTING each half
reads the old or the pending value, and nothing says which (the free value of assumption log 5, of which no value is
claimed). -/
def Obligations.ResultReadsOldOrPending : Prop :=
  (∀ (s : State) (r : Reg), regOffset .pulseSamples ≤ regOffset r → regOffset r ≤ regOffset .padTimeNsHi →
    (s.state ≠ .computing → memReadValue (regOffset r) s = resultHalf s.counts r) ∧
    (memReadValue (regOffset r) s = resultHalf s.counts r ∨
      ∃ q, quantizeState s = .result q ∧ memReadValue (regOffset r) s = resultHalf (storeCounts q) r) ∧
    memReadState (regOffset r) s = s ∧ (∀ v, memWrite (regOffset r) v s = .next s)) ∧
  (∀ row ∈ ([(0x40, fun c => c.pulseSamples), (0x44, fun c => c.priSamples),
             (0x48, fun c => c.padSamples.extractLsb' 0 32), (0x4C, fun c => c.padSamples.extractLsb' 32 32),
             (0x50, fun c => c.totalBurstSamples.extractLsb' 0 32), (0x54, fun c => c.totalBurstSamples.extractLsb' 32 32),
             (0x58, fun c => c.burstCount.extractLsb' 0 32), (0x5C, fun c => c.burstCount.extractLsb' 32 32),
             (0x60, fun c => c.totalSamples.extractLsb' 0 32), (0x64, fun c => c.totalSamples.extractLsb' 32 32),
             (0x68, fun c => c.totalBurstTimeNs.extractLsb' 0 32), (0x6C, fun c => c.totalBurstTimeNs.extractLsb' 32 32),
             (0x70, fun c => c.effectiveCycleNs.extractLsb' 0 32), (0x74, fun c => c.effectiveCycleNs.extractLsb' 32 32),
             (0x78, fun c => c.padTimeNs.extractLsb' 0 32), (0x7C, fun c => c.padTimeNs.extractLsb' 32 32)]
             : List (Byte × (SampleCounts → Word))),
    ∀ s : State,
      (s.state ≠ .computing → memReadValue row.1 s = row.2 s.counts) ∧
      (memReadValue row.1 s = row.2 s.counts ∨
        ∃ q, quantizeState s = .result q ∧ memReadValue row.1 s = row.2 (storeCounts q)) ∧
      memReadState row.1 s = s ∧ (∀ v, memWrite row.1 v s = .next s))

/-- 10_state R53: the state after reset, register by register, the outputs it gives and the pattern table. -/
def Obligations.ResetValues : Prop :=
  State.reset.state = .idle ∧ State.reset.countsValid = false ∧ State.reset.startPending = false ∧
  State.reset.done = false ∧ State.reset.aborted = false ∧ State.reset.rejected = false ∧
  errFlag State.reset = false ∧ State.reset.errCause = .none ∧ State.reset.irqEn = 0 ∧ State.reset.onLevel = 0x7F ∧
  State.reset.sampleRate = 0 ∧ State.reset.pwNs = 0 ∧ State.reset.priNs = 0 ∧ State.reset.pulseCount = 0 ∧
  memReadValue 0x28 State.reset = 0x3B9ACA00 ∧ memReadValue 0x2C State.reset = 0 ∧
  memReadValue 0x30 State.reset = 0x3B9ACA00 ∧ memReadValue 0x34 State.reset = 0 ∧
  State.reset.burstPeriodNs = 1000000000 ∧ State.reset.minDurationNs = 1000000000 ∧
  State.reset.counts.pulseSamples = 0 ∧ State.reset.counts.priSamples = 0 ∧ State.reset.counts.padSamples = 0 ∧
  State.reset.counts.totalBurstSamples = 0 ∧ State.reset.counts.burstCount = 0 ∧
  State.reset.counts.totalSamples = 0 ∧ State.reset.counts.totalBurstTimeNs = 0 ∧
  State.reset.counts.effectiveCycleNs = 0 ∧ State.reset.counts.padTimeNs = 0 ∧
  State.reset.pos = 0 ∧ State.reset.emitHiLatch = 0 ∧ memReadValue 0x00 State.reset = 0x52414452 ∧
  irq State.reset = false ∧ streamOffer State.reset = none ∧
  [rom .etsi .one, rom .etsi .two, rom .etsi .three, rom .etsi .four] =
    [⟨1000, 1428000, 18⟩, ⟨3000, 1667000, 10⟩, ⟨12000, 1111000, 15⟩, ⟨25000, 333000, 20⟩] ∧
  [rom .fcc .one, rom .fcc .two, rom .fcc .three, rom .fcc .four] =
    [⟨1000, 1428000, 18⟩, ⟨3000, 190000, 26⟩, ⟨8000, 350000, 17⟩, ⟨16000, 350000, 14⟩]

/-! ## The whole machine -/

/-- Derived from 30_encoding R100 and 20_memory R70, R71, R75 and R80: a step whose turn is the Host's performs the Host's
next access, after the turn and the access are taken off their lists: a write of the word of a legal command to CMD is that
command, every write at any offset is `memWrite`, every read at any offset is `memReadState` with the offset and the word
`memReadValue` gives put at the end of the host's reads. `withFetchWord` sets exactly such a step up. How the accesses and
the turns come to stand in State, and the list of the host's reads, are the model's (assumption log 2 and 3). -/
def Obligations.StepRunsTheDecodedCommand : Prop :=
  (∀ (s : State) (w : Word) (i : Instr) (prog : List HostOp) (turns : List Turn),
    s.schedule = .host :: turns → s.hostProgram = .write 0x04 w :: prog → decode w = .command i →
    i.wellFormed = true → step s = exec i { s with schedule := turns, hostProgram := prog }) ∧
  (∀ (s : State) (w : Nat) (i : Instr), decodeTableWord 32 w = some i → step (s.withFetchWord 32 w) = exec i s) ∧
  (∀ (s : State) (addr : Byte) (v : Word) (prog : List HostOp) (turns : List Turn),
    s.schedule = .host :: turns → s.hostProgram = .write addr v :: prog →
    step s = memWrite addr v { s with schedule := turns, hostProgram := prog }) ∧
  (∀ (s : State) (addr : Byte) (prog : List HostOp) (turns : List Turn),
    s.schedule = .host :: turns → s.hostProgram = .read addr :: prog →
    step s = .next { memReadState addr s with
      schedule := turns
      hostProgram := prog
      hostReads := s.hostReads ++ [(addr, memReadValue addr s)] })

/-- Derived from 30_encoding R108: a polling round reads STATUS and goes round again while its condition holds, and only then. -/
def Obligations.PollingRoundsReadStatus : Prop :=
  ∀ (s : State) (rest : List HostOp) (turns : List Turn), s.schedule = .host :: turns →
    (s.hostProgram = .waitNotBusy :: rest → step s = .next { s with
      schedule := turns
      hostReads := s.hostReads ++ [(0x08, memReadValue 0x08 s)]
      hostProgram :=
        if (memReadValue 0x08 s).extractLsb' 0 2 = 1 ∨ (memReadValue 0x08 s).extractLsb' 0 2 = 2 then
          .waitNotBusy :: rest
        else rest }) ∧
    (s.hostProgram = .waitCompute :: rest → step s = .next { s with
      schedule := turns
      hostReads := s.hostReads ++ [(0x08, memReadValue 0x08 s)]
      hostProgram := if (memReadValue 0x08 s).extractLsb' 0 2 = 1 then .waitCompute :: rest else rest })

/-- Derived from 70_reset_and_hazards R290: a hardware reset leaves every register at its reset value, `irq` low and nothing
offered, and puts no terminator on the stream. The rest is the model's choice and no rule of the spec: the reset is one
atomic event (assumption log 13), it leaves the sink's record, the host's program, its reads and the schedule alone
(assumption log 3), and the model's counter advances (assumption log 5). -/
def Obligations.HardwareResetLeavesNoTerminator : Prop :=
  ∀ (s : State) (turns : List Turn), s.schedule = .hardReset :: turns →
    ∃ t, step s = .next t ∧ blockOf t = blockOf State.reset ∧ t.sinkRecord = s.sinkRecord ∧
      irq t = false ∧ sValid t = false ∧ t.schedule = turns ∧ t.hostProgram = s.hostProgram ∧
      t.hostReads = s.hostReads ∧ t.raceStep = s.raceStep + 1

/-- The reset state meets the invariant of the block. -/
def Obligations.ResetMeetsTheBlockInvariant : Prop := BlockInv State.reset ∧ StreamInv State.reset

/-- Derived from 10_state R24, R27, R37 and 42_emission R190: every step keeps the invariant of the block. -/
def Obligations.EveryStepKeepsTheBlockInvariant : Prop :=
  ∀ s t : State, BlockInv s → step s = .next t → BlockInv t

/-- Derived from 20_memory R81, R82 and 42_emission R199: every step keeps the sink's record equal, at its end, to the first
`pos` bytes of the stream being emitted. -/
def Obligations.EveryStepKeepsTheStreamInvariant : Prop :=
  ∀ s t : State, BlockInv s → StreamInv s → step s = .next t → StreamInv t

/-- Derived from 42_emission R190 and 41_synthesis R172: in a state the invariant admits no step faults or refuses. -/
def Obligations.NoStepStops : Prop :=
  ∀ s : State, BlockInv s → ∃ t, step s = .next t

/-- Derived from 60_exceptions R263 and 70_reset_and_hazards R315: for every host program, every schedule and every number
of steps, the run from reset goes on and ends in a state that meets both invariants. How program and schedule come to be
loaded is the model's choice (assumption log 2), and so is what a line outside the syntax of 30_encoding R107 and R108 does
(assumption log 15). -/
def Obligations.EveryRunFromBootGoesOn : Prop :=
  ∀ (program : List HostLine) (turns : List Turn) (k : Nat),
    ∃ t, core.run k (boot program turns) = .next t ∧ BlockInv t ∧ StreamInv t

/-- Derived from 60_exceptions R255: every step that changes STATE is a row of its table, made by the event of that row. -/
def Obligations.OnlyListedTransitions : Prop :=
  ∀ s t : State, step s = .next t → t.state ≠ s.state → ListedTransition s t

/-- 10_state R36: the busy lock. -/
def Obligations.ConfigurationIsLockedWhileBusy : Prop :=
  (∀ (r : Reg) (v : Word) (s : State), isConfig r = true → busy s = true →
    memWrite (regOffset r) v s = .next { s with rejected := true }) ∧
  (∀ (r : Reg) (v : Word) (s : State), isConfig r = true → s.state = .idle ∨ s.state = .error →
    ∃ t, memWrite (regOffset r) v s = .next t ∧ t.rejected = s.rejected ∧ memReadValue (regOffset r) t =
      (if r = .onLevel then v &&& 0x000000FF else v)) ∧
  (∀ r : Reg, isConfig r = true ↔ r ∈
    [Reg.onLevel, .sampleRateHz, .pwNs, .priNs, .pulseCount, .burstPeriodNsLo, .burstPeriodNsHi, .minDurationNsLo,
     .minDurationNsHi]) ∧
  (∀ s t : State, busy s = true → step s = .next t → ¬ nextIsCommand s .reset → ¬ nextTurnIs s .hardReset →
    sameConfig s t)

/-- 10_state R47: what writes the result registers, and what does not. -/
def Obligations.CountsAreWrittenTogetherOrNotAtAll : Prop :=
  (∀ s t : State, step s = .next t → t.counts ≠ s.counts →
    (nextIsCore s ∧ s.state = .computing ∧ ∃ r, quantizeState s = .result r ∧ t.counts = storeCounts r ∧
      t.countsValid = true) ∨
    ((nextIsCommand s .reset ∨ nextTurnIs s .hardReset) ∧ t.counts = SampleCounts.zero)) ∧
  (∀ (r : Reg) (v : Word) (s : State), regOffset .pulseSamples ≤ regOffset r → regOffset r ≤ regOffset .padTimeNsHi →
    memWrite (regOffset r) v s = .next s)

/-- Derived from 10_state R37: COUNTS_VALID is set by a successful Core step alone, and cleared only by an accepted timing
write, a successful LOAD_PATTERN (in IDLE, with valid operands), an accepted COMPUTE or START (in IDLE), RESET or a hardware
reset. -/
def Obligations.CountsValidBookkeeping : Prop :=
  (∀ s t : State, step s = .next t → s.countsValid = false → t.countsValid = true →
    nextIsCore s ∧ s.state = .computing ∧ ∃ r, quantizeState s = .result r) ∧
  (∀ s t : State, step s = .next t → s.countsValid = true → t.countsValid = false →
    (∃ r v, nextAccessIs s (.write (regOffset r) v) ∧ isTiming r = true ∧ busy s = false) ∨
    (∃ d i, nextIsCommand s (.loadPattern d i) ∧ s.state = .idle ∧ domainOf d ≠ none ∧ indexOf i ≠ none) ∨
    (nextIsCommand s .compute ∧ s.state = .idle) ∨ (nextIsCommand s .start ∧ s.state = .idle) ∨
    nextIsCommand s .reset ∨ nextTurnIs s .hardReset)

/-- Derived from 10_state R52, 70_reset_and_hazards R308 and 41_synthesis R176: what clears each sticky flag; of the STARTs
only an accepted one (in IDLE) does. -/
def Obligations.StickyFlagsStayUntilCleared : Prop :=
  ∀ s t : State, step s = .next t → ¬ nextIsCommand s .reset → ¬ nextTurnIs s .hardReset →
    (s.rejected = true → t.rejected = false → ∃ v : Word, v.getLsbD 6 = true ∧ nextAccessIs s (.write 0x08 v)) ∧
    (s.done = true → t.done = false →
      (∃ v : Word, v.getLsbD 4 = true ∧ nextAccessIs s (.write 0x08 v)) ∨
        (nextIsCommand s .start ∧ s.state = .idle)) ∧
    (s.aborted = true → t.aborted = false →
      (∃ v : Word, v.getLsbD 5 = true ∧ nextAccessIs s (.write 0x08 v)) ∨
        (nextIsCommand s .start ∧ s.state = .idle))

/-- 60_exceptions R264: the order of events of one clock cycle, for every combination of the five, and the three
consequences the rule draws. The model's counter `raceStep` in the next states is no state of the spec (assumption log 5). -/
def Obligations.SameCycleOrder : Prop :=
  (∀ hardReset host sinkError accept core : Bool,
    sameCycle hardReset host sinkError accept core =
      ([(hardReset, Turn.hardReset), (host, .host), (sinkError, .sinkError), (accept, .sinkAccept),
        (core, .core)].filter (fun e => e.1)).map (fun e => e.2)) ∧
  (∀ (s : State) (prog : List HostOp) (rest : List Turn), s.state = .emitting →
    s.schedule = sameCycle false true false true false ++ rest → s.hostProgram = .write 0x04 0x00000004 :: prog →
    core.run 2 s = .next { s with
      schedule := rest
      hostProgram := prog
      state := .idle
      aborted := true
      sinkRecord := s.sinkRecord ++ [.abort]
      raceStep := s.raceStep + 1 }) ∧
  (∀ (s : State) (rest : List Turn), s.state = .emitting →
    s.schedule = sameCycle false false true true false ++ rest →
    core.run 2 s = .next { s with
      schedule := rest
      startPending := false
      errCause := .ioSink
      state := .error
      sinkRecord := s.sinkRecord ++ [.abort]
      raceStep := s.raceStep + 2 }) ∧
  (∀ (s : State) (v : Word) (prog : List HostOp) (rest : List Turn), BlockInv s → s.state = .emitting →
    s.pos.toNat + 1 = 2 * s.counts.totalSamples.toNat → v.getLsbD 4 = true →
    s.schedule = sameCycle false true false true false ++ rest → s.hostProgram = .write 0x08 v :: prog →
    ∃ t, core.run 2 s = .next t ∧ t.done = true ∧ t.state = .idle)

/-- Derived from 70_reset_and_hazards R315: once a run has ended its observation does not change, unless a hardware reset
ends it. -/
def Obligations.EndedRunsKeepTheirObservation : Prop :=
  ∀ s t : State, runEnded s → step s = .next t → ¬ nextTurnIs s .hardReset →
    runEnded t ∧ blockOf t = blockOf s ∧ t.sinkRecord = s.sinkRecord ∧ t.hostReads = s.hostReads

/-- Derived from 10_state R48: EMIT_BYTES changes in no step but the acceptance of START, RESET and a hardware reset, which
clear it, and the acceptance of a byte while EMITTING, which adds 1. -/
def Obligations.EmitBytesCountsAcceptedBytes : Prop :=
  ∀ s t : State, step s = .next t → t.pos ≠ s.pos →
    (nextIsCommand s .start ∧ s.state = .idle ∧ t.pos = 0) ∨
    ((nextIsCommand s .reset ∨ nextTurnIs s .hardReset) ∧ t.pos = 0) ∨
    (nextTurnIs s .sinkAccept ∧ s.state = .emitting ∧ t.pos = s.pos + 1)
end

