-- ==== Sys2Proof/Laws/State.lean ====
section
/-! SUPPORT. What each named update of the state leaves in each field: one lemma per field per update, true by unfolding
the update once, so that no later proof unfolds a record update. -/

namespace Sys2Proof.Machine

@[simp] theorem reject_state (s : State) : (reject s).state = s.state := rfl
@[simp] theorem reject_startPending (s : State) : (reject s).startPending = s.startPending := rfl
@[simp] theorem reject_countsValid (s : State) : (reject s).countsValid = s.countsValid := rfl
@[simp] theorem reject_done (s : State) : (reject s).done = s.done := rfl
@[simp] theorem reject_aborted (s : State) : (reject s).aborted = s.aborted := rfl
@[simp] theorem reject_rejected (s : State) : (reject s).rejected = true := rfl
@[simp] theorem reject_errCause (s : State) : (reject s).errCause = s.errCause := rfl
@[simp] theorem reject_irqEn (s : State) : (reject s).irqEn = s.irqEn := rfl
@[simp] theorem reject_onLevel (s : State) : (reject s).onLevel = s.onLevel := rfl
@[simp] theorem reject_sampleRate (s : State) : (reject s).sampleRate = s.sampleRate := rfl
@[simp] theorem reject_pwNs (s : State) : (reject s).pwNs = s.pwNs := rfl
@[simp] theorem reject_priNs (s : State) : (reject s).priNs = s.priNs := rfl
@[simp] theorem reject_pulseCount (s : State) : (reject s).pulseCount = s.pulseCount := rfl
@[simp] theorem reject_burstPeriodNs (s : State) : (reject s).burstPeriodNs = s.burstPeriodNs := rfl
@[simp] theorem reject_minDurationNs (s : State) : (reject s).minDurationNs = s.minDurationNs := rfl
@[simp] theorem reject_counts (s : State) : (reject s).counts = s.counts := rfl
@[simp] theorem reject_pos (s : State) : (reject s).pos = s.pos := rfl
@[simp] theorem reject_emitHiLatch (s : State) : (reject s).emitHiLatch = s.emitHiLatch := rfl
@[simp] theorem reject_hostProgram (s : State) : (reject s).hostProgram = s.hostProgram := rfl
@[simp] theorem reject_schedule (s : State) : (reject s).schedule = s.schedule := rfl
@[simp] theorem reject_hostReads (s : State) : (reject s).hostReads = s.hostReads := rfl
@[simp] theorem reject_sinkRecord (s : State) : (reject s).sinkRecord = s.sinkRecord := rfl
@[simp] theorem reject_raceStep (s : State) : (reject s).raceStep = s.raceStep := rfl

@[simp] theorem emitAbort_state (s : State) : (emitAbort s).state = s.state := rfl
@[simp] theorem emitAbort_startPending (s : State) : (emitAbort s).startPending = s.startPending := rfl
@[simp] theorem emitAbort_countsValid (s : State) : (emitAbort s).countsValid = s.countsValid := rfl
@[simp] theorem emitAbort_done (s : State) : (emitAbort s).done = s.done := rfl
@[simp] theorem emitAbort_aborted (s : State) : (emitAbort s).aborted = s.aborted := rfl
@[simp] theorem emitAbort_rejected (s : State) : (emitAbort s).rejected = s.rejected := rfl
@[simp] theorem emitAbort_errCause (s : State) : (emitAbort s).errCause = s.errCause := rfl
@[simp] theorem emitAbort_irqEn (s : State) : (emitAbort s).irqEn = s.irqEn := rfl
@[simp] theorem emitAbort_onLevel (s : State) : (emitAbort s).onLevel = s.onLevel := rfl
@[simp] theorem emitAbort_sampleRate (s : State) : (emitAbort s).sampleRate = s.sampleRate := rfl
@[simp] theorem emitAbort_pwNs (s : State) : (emitAbort s).pwNs = s.pwNs := rfl
@[simp] theorem emitAbort_priNs (s : State) : (emitAbort s).priNs = s.priNs := rfl
@[simp] theorem emitAbort_pulseCount (s : State) : (emitAbort s).pulseCount = s.pulseCount := rfl
@[simp] theorem emitAbort_burstPeriodNs (s : State) : (emitAbort s).burstPeriodNs = s.burstPeriodNs := rfl
@[simp] theorem emitAbort_minDurationNs (s : State) : (emitAbort s).minDurationNs = s.minDurationNs := rfl
@[simp] theorem emitAbort_counts (s : State) : (emitAbort s).counts = s.counts := rfl
@[simp] theorem emitAbort_pos (s : State) : (emitAbort s).pos = s.pos := rfl
@[simp] theorem emitAbort_emitHiLatch (s : State) : (emitAbort s).emitHiLatch = s.emitHiLatch := rfl
@[simp] theorem emitAbort_hostProgram (s : State) : (emitAbort s).hostProgram = s.hostProgram := rfl
@[simp] theorem emitAbort_schedule (s : State) : (emitAbort s).schedule = s.schedule := rfl
@[simp] theorem emitAbort_hostReads (s : State) : (emitAbort s).hostReads = s.hostReads := rfl
@[simp] theorem emitAbort_sinkRecord (s : State) : (emitAbort s).sinkRecord = s.sinkRecord ++ [.abort] := rfl
@[simp] theorem emitAbort_raceStep (s : State) : (emitAbort s).raceStep = s.raceStep := rfl

@[simp] theorem countRace_state (s : State) : (countRace s).state = s.state := rfl
@[simp] theorem countRace_startPending (s : State) : (countRace s).startPending = s.startPending := rfl
@[simp] theorem countRace_countsValid (s : State) : (countRace s).countsValid = s.countsValid := rfl
@[simp] theorem countRace_done (s : State) : (countRace s).done = s.done := rfl
@[simp] theorem countRace_aborted (s : State) : (countRace s).aborted = s.aborted := rfl
@[simp] theorem countRace_rejected (s : State) : (countRace s).rejected = s.rejected := rfl
@[simp] theorem countRace_errCause (s : State) : (countRace s).errCause = s.errCause := rfl
@[simp] theorem countRace_irqEn (s : State) : (countRace s).irqEn = s.irqEn := rfl
@[simp] theorem countRace_onLevel (s : State) : (countRace s).onLevel = s.onLevel := rfl
@[simp] theorem countRace_sampleRate (s : State) : (countRace s).sampleRate = s.sampleRate := rfl
@[simp] theorem countRace_pwNs (s : State) : (countRace s).pwNs = s.pwNs := rfl
@[simp] theorem countRace_priNs (s : State) : (countRace s).priNs = s.priNs := rfl
@[simp] theorem countRace_pulseCount (s : State) : (countRace s).pulseCount = s.pulseCount := rfl
@[simp] theorem countRace_burstPeriodNs (s : State) : (countRace s).burstPeriodNs = s.burstPeriodNs := rfl
@[simp] theorem countRace_minDurationNs (s : State) : (countRace s).minDurationNs = s.minDurationNs := rfl
@[simp] theorem countRace_counts (s : State) : (countRace s).counts = s.counts := rfl
@[simp] theorem countRace_pos (s : State) : (countRace s).pos = s.pos := rfl
@[simp] theorem countRace_emitHiLatch (s : State) : (countRace s).emitHiLatch = s.emitHiLatch := rfl
@[simp] theorem countRace_hostProgram (s : State) : (countRace s).hostProgram = s.hostProgram := rfl
@[simp] theorem countRace_schedule (s : State) : (countRace s).schedule = s.schedule := rfl
@[simp] theorem countRace_hostReads (s : State) : (countRace s).hostReads = s.hostReads := rfl
@[simp] theorem countRace_sinkRecord (s : State) : (countRace s).sinkRecord = s.sinkRecord := rfl
@[simp] theorem countRace_raceStep (s : State) : (countRace s).raceStep = s.raceStep + 1 := rfl

@[simp] theorem complete_state (s : State) : (complete s).state = .idle := rfl
@[simp] theorem complete_startPending (s : State) : (complete s).startPending = s.startPending := rfl
@[simp] theorem complete_countsValid (s : State) : (complete s).countsValid = s.countsValid := rfl
@[simp] theorem complete_done (s : State) : (complete s).done = true := rfl
@[simp] theorem complete_aborted (s : State) : (complete s).aborted = s.aborted := rfl
@[simp] theorem complete_rejected (s : State) : (complete s).rejected = s.rejected := rfl
@[simp] theorem complete_errCause (s : State) : (complete s).errCause = s.errCause := rfl
@[simp] theorem complete_irqEn (s : State) : (complete s).irqEn = s.irqEn := rfl
@[simp] theorem complete_onLevel (s : State) : (complete s).onLevel = s.onLevel := rfl
@[simp] theorem complete_sampleRate (s : State) : (complete s).sampleRate = s.sampleRate := rfl
@[simp] theorem complete_pwNs (s : State) : (complete s).pwNs = s.pwNs := rfl
@[simp] theorem complete_priNs (s : State) : (complete s).priNs = s.priNs := rfl
@[simp] theorem complete_pulseCount (s : State) : (complete s).pulseCount = s.pulseCount := rfl
@[simp] theorem complete_burstPeriodNs (s : State) : (complete s).burstPeriodNs = s.burstPeriodNs := rfl
@[simp] theorem complete_minDurationNs (s : State) : (complete s).minDurationNs = s.minDurationNs := rfl
@[simp] theorem complete_counts (s : State) : (complete s).counts = s.counts := rfl
@[simp] theorem complete_pos (s : State) : (complete s).pos = s.pos := rfl
@[simp] theorem complete_emitHiLatch (s : State) : (complete s).emitHiLatch = s.emitHiLatch := rfl
@[simp] theorem complete_hostProgram (s : State) : (complete s).hostProgram = s.hostProgram := rfl
@[simp] theorem complete_schedule (s : State) : (complete s).schedule = s.schedule := rfl
@[simp] theorem complete_hostReads (s : State) : (complete s).hostReads = s.hostReads := rfl
@[simp] theorem complete_sinkRecord (s : State) : (complete s).sinkRecord = s.sinkRecord := rfl
@[simp] theorem complete_raceStep (s : State) : (complete s).raceStep = s.raceStep := rfl

@[simp] theorem deliverByte_state (s : State) : (deliverByte s).state = s.state := rfl
@[simp] theorem deliverByte_startPending (s : State) : (deliverByte s).startPending = s.startPending := rfl
@[simp] theorem deliverByte_countsValid (s : State) : (deliverByte s).countsValid = s.countsValid := rfl
@[simp] theorem deliverByte_done (s : State) : (deliverByte s).done = s.done := rfl
@[simp] theorem deliverByte_aborted (s : State) : (deliverByte s).aborted = s.aborted := rfl
@[simp] theorem deliverByte_rejected (s : State) : (deliverByte s).rejected = s.rejected := rfl
@[simp] theorem deliverByte_errCause (s : State) : (deliverByte s).errCause = s.errCause := rfl
@[simp] theorem deliverByte_irqEn (s : State) : (deliverByte s).irqEn = s.irqEn := rfl
@[simp] theorem deliverByte_onLevel (s : State) : (deliverByte s).onLevel = s.onLevel := rfl
@[simp] theorem deliverByte_sampleRate (s : State) : (deliverByte s).sampleRate = s.sampleRate := rfl
@[simp] theorem deliverByte_pwNs (s : State) : (deliverByte s).pwNs = s.pwNs := rfl
@[simp] theorem deliverByte_priNs (s : State) : (deliverByte s).priNs = s.priNs := rfl
@[simp] theorem deliverByte_pulseCount (s : State) : (deliverByte s).pulseCount = s.pulseCount := rfl
@[simp] theorem deliverByte_burstPeriodNs (s : State) : (deliverByte s).burstPeriodNs = s.burstPeriodNs := rfl
@[simp] theorem deliverByte_minDurationNs (s : State) : (deliverByte s).minDurationNs = s.minDurationNs := rfl
@[simp] theorem deliverByte_counts (s : State) : (deliverByte s).counts = s.counts := rfl
@[simp] theorem deliverByte_pos (s : State) : (deliverByte s).pos = s.pos + 1 := rfl
@[simp] theorem deliverByte_emitHiLatch (s : State) : (deliverByte s).emitHiLatch = s.emitHiLatch := rfl
@[simp] theorem deliverByte_hostProgram (s : State) : (deliverByte s).hostProgram = s.hostProgram := rfl
@[simp] theorem deliverByte_schedule (s : State) : (deliverByte s).schedule = s.schedule := rfl
@[simp] theorem deliverByte_hostReads (s : State) : (deliverByte s).hostReads = s.hostReads := rfl
@[simp] theorem deliverByte_sinkRecord (s : State) : (deliverByte s).sinkRecord = s.sinkRecord ++
      [.byte (streamByte (waveform s) s.pos.toNat) (isLast (waveform s) s.pos.toNat)] := rfl
@[simp] theorem deliverByte_raceStep (s : State) : (deliverByte s).raceStep = s.raceStep := rfl

@[simp] theorem clearError_state (s : State) : (clearError s).state = if s.state = .error then .idle else s.state := rfl
@[simp] theorem clearError_startPending (s : State) : (clearError s).startPending = s.startPending := rfl
@[simp] theorem clearError_countsValid (s : State) : (clearError s).countsValid = s.countsValid := rfl
@[simp] theorem clearError_done (s : State) : (clearError s).done = s.done := rfl
@[simp] theorem clearError_aborted (s : State) : (clearError s).aborted = s.aborted := rfl
@[simp] theorem clearError_rejected (s : State) : (clearError s).rejected = s.rejected := rfl
@[simp] theorem clearError_errCause (s : State) : (clearError s).errCause = .none := rfl
@[simp] theorem clearError_irqEn (s : State) : (clearError s).irqEn = s.irqEn := rfl
@[simp] theorem clearError_onLevel (s : State) : (clearError s).onLevel = s.onLevel := rfl
@[simp] theorem clearError_sampleRate (s : State) : (clearError s).sampleRate = s.sampleRate := rfl
@[simp] theorem clearError_pwNs (s : State) : (clearError s).pwNs = s.pwNs := rfl
@[simp] theorem clearError_priNs (s : State) : (clearError s).priNs = s.priNs := rfl
@[simp] theorem clearError_pulseCount (s : State) : (clearError s).pulseCount = s.pulseCount := rfl
@[simp] theorem clearError_burstPeriodNs (s : State) : (clearError s).burstPeriodNs = s.burstPeriodNs := rfl
@[simp] theorem clearError_minDurationNs (s : State) : (clearError s).minDurationNs = s.minDurationNs := rfl
@[simp] theorem clearError_counts (s : State) : (clearError s).counts = s.counts := rfl
@[simp] theorem clearError_pos (s : State) : (clearError s).pos = s.pos := rfl
@[simp] theorem clearError_emitHiLatch (s : State) : (clearError s).emitHiLatch = s.emitHiLatch := rfl
@[simp] theorem clearError_hostProgram (s : State) : (clearError s).hostProgram = s.hostProgram := rfl
@[simp] theorem clearError_schedule (s : State) : (clearError s).schedule = s.schedule := rfl
@[simp] theorem clearError_hostReads (s : State) : (clearError s).hostReads = s.hostReads := rfl
@[simp] theorem clearError_sinkRecord (s : State) : (clearError s).sinkRecord = s.sinkRecord := rfl
@[simp] theorem clearError_raceStep (s : State) : (clearError s).raceStep = s.raceStep := rfl

@[simp] theorem writeStatus_state (v : Word) (s : State) : (writeStatus v s).state = s.state := rfl
@[simp] theorem writeStatus_startPending (v : Word) (s : State) : (writeStatus v s).startPending = s.startPending := rfl
@[simp] theorem writeStatus_countsValid (v : Word) (s : State) : (writeStatus v s).countsValid = s.countsValid := rfl
@[simp] theorem writeStatus_done (v : Word) (s : State) : (writeStatus v s).done = (s.done && !v.getLsbD 4) := rfl
@[simp] theorem writeStatus_aborted (v : Word) (s : State) : (writeStatus v s).aborted = (s.aborted && !v.getLsbD 5) := rfl
@[simp] theorem writeStatus_rejected (v : Word) (s : State) : (writeStatus v s).rejected = (s.rejected && !v.getLsbD 6) := rfl
@[simp] theorem writeStatus_errCause (v : Word) (s : State) : (writeStatus v s).errCause = s.errCause := rfl
@[simp] theorem writeStatus_irqEn (v : Word) (s : State) : (writeStatus v s).irqEn = s.irqEn := rfl
@[simp] theorem writeStatus_onLevel (v : Word) (s : State) : (writeStatus v s).onLevel = s.onLevel := rfl
@[simp] theorem writeStatus_sampleRate (v : Word) (s : State) : (writeStatus v s).sampleRate = s.sampleRate := rfl
@[simp] theorem writeStatus_pwNs (v : Word) (s : State) : (writeStatus v s).pwNs = s.pwNs := rfl
@[simp] theorem writeStatus_priNs (v : Word) (s : State) : (writeStatus v s).priNs = s.priNs := rfl
@[simp] theorem writeStatus_pulseCount (v : Word) (s : State) : (writeStatus v s).pulseCount = s.pulseCount := rfl
@[simp] theorem writeStatus_burstPeriodNs (v : Word) (s : State) : (writeStatus v s).burstPeriodNs = s.burstPeriodNs := rfl
@[simp] theorem writeStatus_minDurationNs (v : Word) (s : State) : (writeStatus v s).minDurationNs = s.minDurationNs := rfl
@[simp] theorem writeStatus_counts (v : Word) (s : State) : (writeStatus v s).counts = s.counts := rfl
@[simp] theorem writeStatus_pos (v : Word) (s : State) : (writeStatus v s).pos = s.pos := rfl
@[simp] theorem writeStatus_emitHiLatch (v : Word) (s : State) : (writeStatus v s).emitHiLatch = s.emitHiLatch := rfl
@[simp] theorem writeStatus_hostProgram (v : Word) (s : State) : (writeStatus v s).hostProgram = s.hostProgram := rfl
@[simp] theorem writeStatus_schedule (v : Word) (s : State) : (writeStatus v s).schedule = s.schedule := rfl
@[simp] theorem writeStatus_hostReads (v : Word) (s : State) : (writeStatus v s).hostReads = s.hostReads := rfl
@[simp] theorem writeStatus_sinkRecord (v : Word) (s : State) : (writeStatus v s).sinkRecord = s.sinkRecord := rfl
@[simp] theorem writeStatus_raceStep (v : Word) (s : State) : (writeStatus v s).raceStep = s.raceStep := rfl

@[simp] theorem writeIrqEn_state (v : Word) (s : State) : (writeIrqEn v s).state = s.state := rfl
@[simp] theorem writeIrqEn_startPending (v : Word) (s : State) : (writeIrqEn v s).startPending = s.startPending := rfl
@[simp] theorem writeIrqEn_countsValid (v : Word) (s : State) : (writeIrqEn v s).countsValid = s.countsValid := rfl
@[simp] theorem writeIrqEn_done (v : Word) (s : State) : (writeIrqEn v s).done = s.done := rfl
@[simp] theorem writeIrqEn_aborted (v : Word) (s : State) : (writeIrqEn v s).aborted = s.aborted := rfl
@[simp] theorem writeIrqEn_rejected (v : Word) (s : State) : (writeIrqEn v s).rejected = s.rejected := rfl
@[simp] theorem writeIrqEn_errCause (v : Word) (s : State) : (writeIrqEn v s).errCause = s.errCause := rfl
@[simp] theorem writeIrqEn_irqEn (v : Word) (s : State) : (writeIrqEn v s).irqEn = v.extractLsb' 0 4 := rfl
@[simp] theorem writeIrqEn_onLevel (v : Word) (s : State) : (writeIrqEn v s).onLevel = s.onLevel := rfl
@[simp] theorem writeIrqEn_sampleRate (v : Word) (s : State) : (writeIrqEn v s).sampleRate = s.sampleRate := rfl
@[simp] theorem writeIrqEn_pwNs (v : Word) (s : State) : (writeIrqEn v s).pwNs = s.pwNs := rfl
@[simp] theorem writeIrqEn_priNs (v : Word) (s : State) : (writeIrqEn v s).priNs = s.priNs := rfl
@[simp] theorem writeIrqEn_pulseCount (v : Word) (s : State) : (writeIrqEn v s).pulseCount = s.pulseCount := rfl
@[simp] theorem writeIrqEn_burstPeriodNs (v : Word) (s : State) : (writeIrqEn v s).burstPeriodNs = s.burstPeriodNs := rfl
@[simp] theorem writeIrqEn_minDurationNs (v : Word) (s : State) : (writeIrqEn v s).minDurationNs = s.minDurationNs := rfl
@[simp] theorem writeIrqEn_counts (v : Word) (s : State) : (writeIrqEn v s).counts = s.counts := rfl
@[simp] theorem writeIrqEn_pos (v : Word) (s : State) : (writeIrqEn v s).pos = s.pos := rfl
@[simp] theorem writeIrqEn_emitHiLatch (v : Word) (s : State) : (writeIrqEn v s).emitHiLatch = s.emitHiLatch := rfl
@[simp] theorem writeIrqEn_hostProgram (v : Word) (s : State) : (writeIrqEn v s).hostProgram = s.hostProgram := rfl
@[simp] theorem writeIrqEn_schedule (v : Word) (s : State) : (writeIrqEn v s).schedule = s.schedule := rfl
@[simp] theorem writeIrqEn_hostReads (v : Word) (s : State) : (writeIrqEn v s).hostReads = s.hostReads := rfl
@[simp] theorem writeIrqEn_sinkRecord (v : Word) (s : State) : (writeIrqEn v s).sinkRecord = s.sinkRecord := rfl
@[simp] theorem writeIrqEn_raceStep (v : Word) (s : State) : (writeIrqEn v s).raceStep = s.raceStep := rfl

@[simp] theorem resetBlock_state (s : State) : (resetBlock s).state = State.reset.state := rfl
@[simp] theorem resetBlock_startPending (s : State) : (resetBlock s).startPending = State.reset.startPending := rfl
@[simp] theorem resetBlock_countsValid (s : State) : (resetBlock s).countsValid = State.reset.countsValid := rfl
@[simp] theorem resetBlock_done (s : State) : (resetBlock s).done = State.reset.done := rfl
@[simp] theorem resetBlock_aborted (s : State) : (resetBlock s).aborted = State.reset.aborted := rfl
@[simp] theorem resetBlock_rejected (s : State) : (resetBlock s).rejected = State.reset.rejected := rfl
@[simp] theorem resetBlock_errCause (s : State) : (resetBlock s).errCause = State.reset.errCause := rfl
@[simp] theorem resetBlock_irqEn (s : State) : (resetBlock s).irqEn = State.reset.irqEn := rfl
@[simp] theorem resetBlock_onLevel (s : State) : (resetBlock s).onLevel = State.reset.onLevel := rfl
@[simp] theorem resetBlock_sampleRate (s : State) : (resetBlock s).sampleRate = State.reset.sampleRate := rfl
@[simp] theorem resetBlock_pwNs (s : State) : (resetBlock s).pwNs = State.reset.pwNs := rfl
@[simp] theorem resetBlock_priNs (s : State) : (resetBlock s).priNs = State.reset.priNs := rfl
@[simp] theorem resetBlock_pulseCount (s : State) : (resetBlock s).pulseCount = State.reset.pulseCount := rfl
@[simp] theorem resetBlock_burstPeriodNs (s : State) : (resetBlock s).burstPeriodNs = State.reset.burstPeriodNs := rfl
@[simp] theorem resetBlock_minDurationNs (s : State) : (resetBlock s).minDurationNs = State.reset.minDurationNs := rfl
@[simp] theorem resetBlock_counts (s : State) : (resetBlock s).counts = State.reset.counts := rfl
@[simp] theorem resetBlock_pos (s : State) : (resetBlock s).pos = State.reset.pos := rfl
@[simp] theorem resetBlock_emitHiLatch (s : State) : (resetBlock s).emitHiLatch = State.reset.emitHiLatch := rfl
@[simp] theorem resetBlock_hostProgram (s : State) : (resetBlock s).hostProgram = s.hostProgram := rfl
@[simp] theorem resetBlock_schedule (s : State) : (resetBlock s).schedule = s.schedule := rfl
@[simp] theorem resetBlock_hostReads (s : State) : (resetBlock s).hostReads = s.hostReads := rfl
@[simp] theorem resetBlock_sinkRecord (s : State) : (resetBlock s).sinkRecord = s.sinkRecord := rfl
@[simp] theorem resetBlock_raceStep (s : State) : (resetBlock s).raceStep = s.raceStep := rfl

@[simp] theorem endOpenStream_state (s : State) : (endOpenStream s).state = s.state := by
  unfold endOpenStream; split <;> rfl
@[simp] theorem endOpenStream_startPending (s : State) : (endOpenStream s).startPending = s.startPending := by
  unfold endOpenStream; split <;> rfl
@[simp] theorem endOpenStream_countsValid (s : State) : (endOpenStream s).countsValid = s.countsValid := by
  unfold endOpenStream; split <;> rfl
@[simp] theorem endOpenStream_done (s : State) : (endOpenStream s).done = s.done := by
  unfold endOpenStream; split <;> rfl
@[simp] theorem endOpenStream_aborted (s : State) : (endOpenStream s).aborted = s.aborted := by
  unfold endOpenStream; split <;> rfl
@[simp] theorem endOpenStream_rejected (s : State) : (endOpenStream s).rejected = s.rejected := by
  unfold endOpenStream; split <;> rfl
@[simp] theorem endOpenStream_errCause (s : State) : (endOpenStream s).errCause = s.errCause := by
  unfold endOpenStream; split <;> rfl
@[simp] theorem endOpenStream_irqEn (s : State) : (endOpenStream s).irqEn = s.irqEn := by
  unfold endOpenStream; split <;> rfl
@[simp] theorem endOpenStream_onLevel (s : State) : (endOpenStream s).onLevel = s.onLevel := by
  unfold endOpenStream; split <;> rfl
@[simp] theorem endOpenStream_sampleRate (s : State) : (endOpenStream s).sampleRate = s.sampleRate := by
  unfold endOpenStream; split <;> rfl
@[simp] theorem endOpenStream_pwNs (s : State) : (endOpenStream s).pwNs = s.pwNs := by
  unfold endOpenStream; split <;> rfl
@[simp] theorem endOpenStream_priNs (s : State) : (endOpenStream s).priNs = s.priNs := by
  unfold endOpenStream; split <;> rfl
@[simp] theorem endOpenStream_pulseCount (s : State) : (endOpenStream s).pulseCount = s.pulseCount := by
  unfold endOpenStream; split <;> rfl
@[simp] theorem endOpenStream_burstPeriodNs (s : State) : (endOpenStream s).burstPeriodNs = s.burstPeriodNs := by
  unfold endOpenStream; split <;> rfl
@[simp] theorem endOpenStream_minDurationNs (s : State) : (endOpenStream s).minDurationNs = s.minDurationNs := by
  unfold endOpenStream; split <;> rfl
@[simp] theorem endOpenStream_counts (s : State) : (endOpenStream s).counts = s.counts := by
  unfold endOpenStream; split <;> rfl
@[simp] theorem endOpenStream_pos (s : State) : (endOpenStream s).pos = s.pos := by
  unfold endOpenStream; split <;> rfl
@[simp] theorem endOpenStream_emitHiLatch (s : State) : (endOpenStream s).emitHiLatch = s.emitHiLatch := by
  unfold endOpenStream; split <;> rfl
@[simp] theorem endOpenStream_hostProgram (s : State) : (endOpenStream s).hostProgram = s.hostProgram := by
  unfold endOpenStream; split <;> rfl
@[simp] theorem endOpenStream_schedule (s : State) : (endOpenStream s).schedule = s.schedule := by
  unfold endOpenStream; split <;> rfl
@[simp] theorem endOpenStream_hostReads (s : State) : (endOpenStream s).hostReads = s.hostReads := by
  unfold endOpenStream; split <;> rfl
@[simp] theorem endOpenStream_sinkRecord (s : State) :
    (endOpenStream s).sinkRecord = s.sinkRecord ++ (if streaming s then [StreamEvent.abort] else []) := by
  unfold endOpenStream; split <;> simp [*]
@[simp] theorem endOpenStream_raceStep (s : State) : (endOpenStream s).raceStep = s.raceStep := by
  unfold endOpenStream; split <;> rfl

@[simp] theorem raiseError_state (c : Cause) (s : State) : (raiseError c s).state = .error := by simp [raiseError]
@[simp] theorem raiseError_startPending (c : Cause) (s : State) : (raiseError c s).startPending = false := by simp [raiseError]
@[simp] theorem raiseError_countsValid (c : Cause) (s : State) : (raiseError c s).countsValid = s.countsValid := by simp [raiseError]
@[simp] theorem raiseError_done (c : Cause) (s : State) : (raiseError c s).done = s.done := by simp [raiseError]
@[simp] theorem raiseError_aborted (c : Cause) (s : State) : (raiseError c s).aborted = s.aborted := by simp [raiseError]
@[simp] theorem raiseError_rejected (c : Cause) (s : State) : (raiseError c s).rejected = s.rejected := by simp [raiseError]
@[simp] theorem raiseError_errCause (c : Cause) (s : State) : (raiseError c s).errCause = c := by simp [raiseError]
@[simp] theorem raiseError_irqEn (c : Cause) (s : State) : (raiseError c s).irqEn = s.irqEn := by simp [raiseError]
@[simp] theorem raiseError_onLevel (c : Cause) (s : State) : (raiseError c s).onLevel = s.onLevel := by simp [raiseError]
@[simp] theorem raiseError_sampleRate (c : Cause) (s : State) : (raiseError c s).sampleRate = s.sampleRate := by simp [raiseError]
@[simp] theorem raiseError_pwNs (c : Cause) (s : State) : (raiseError c s).pwNs = s.pwNs := by simp [raiseError]
@[simp] theorem raiseError_priNs (c : Cause) (s : State) : (raiseError c s).priNs = s.priNs := by simp [raiseError]
@[simp] theorem raiseError_pulseCount (c : Cause) (s : State) : (raiseError c s).pulseCount = s.pulseCount := by simp [raiseError]
@[simp] theorem raiseError_burstPeriodNs (c : Cause) (s : State) : (raiseError c s).burstPeriodNs = s.burstPeriodNs := by simp [raiseError]
@[simp] theorem raiseError_minDurationNs (c : Cause) (s : State) : (raiseError c s).minDurationNs = s.minDurationNs := by simp [raiseError]
@[simp] theorem raiseError_counts (c : Cause) (s : State) : (raiseError c s).counts = s.counts := by simp [raiseError]
@[simp] theorem raiseError_pos (c : Cause) (s : State) : (raiseError c s).pos = s.pos := by simp [raiseError]
@[simp] theorem raiseError_emitHiLatch (c : Cause) (s : State) : (raiseError c s).emitHiLatch = s.emitHiLatch := by simp [raiseError]
@[simp] theorem raiseError_hostProgram (c : Cause) (s : State) : (raiseError c s).hostProgram = s.hostProgram := by simp [raiseError]
@[simp] theorem raiseError_schedule (c : Cause) (s : State) : (raiseError c s).schedule = s.schedule := by simp [raiseError]
@[simp] theorem raiseError_hostReads (c : Cause) (s : State) : (raiseError c s).hostReads = s.hostReads := by simp [raiseError]
@[simp] theorem raiseError_sinkRecord (c : Cause) (s : State) :
    (raiseError c s).sinkRecord = s.sinkRecord ++ (if streaming s then [StreamEvent.abort] else []) := by
  simp [raiseError]
@[simp] theorem raiseError_raceStep (c : Cause) (s : State) : (raiseError c s).raceStep = s.raceStep := by simp [raiseError]

/-- `reject()` twice is `reject()` once: "A rejected write sets REJECTED, which is itself idempotent" (20_memory R76). -/
theorem reject_idempotent (s : State) : reject (reject s) = reject s := rfl

end Sys2Proof.Machine
end

