-- ==== Sys2Proof/Laws/Ops.lean ====
section
/-! SUPPORT. One lemma per shared operation that says once everything it can do: "if it answers next t, then one of these
holds". Later proofs cite these and do not unfold the operations. -/

namespace Sys2Proof.Machine

/-- What each accepted command does to the state. -/
def effectOf : Instr → State → State
  | .nop, s => s
  | .loadPattern d i, s => loadPattern d i s
  | .compute, s => { s with countsValid := false, startPending := false, state := .computing }
  | .start, s =>
    { s with countsValid := false, done := false, aborted := false, pos := 0, startPending := true, state := .computing }
  | .abort, s => abortEffect s
  | .clear, s => clearError s
  | .reset, s => resetBlock (endOpenStream s)

/-- A command always answers a next state: its effect if accepted, `reject()` if not. -/
theorem exec_eq (i : Instr) (s : State) :
    exec i s = .next (if accepted i s.state then effectOf i s else reject s) := by
  cases i <;> rfl

theorem exec_cases {i : Instr} {s t : State} (h : exec i s = .next t) :
    (accepted i s.state = true ∧ t = effectOf i s) ∨ (accepted i s.state = false ∧ t = reject s) := by
  rw [exec_eq] at h
  injection h with h
  cases ha : accepted i s.state
  · exact .inr ⟨rfl, by simpa [ha] using h.symm⟩
  · exact .inl ⟨rfl, by simpa [ha] using h.symm⟩

/-- LOAD_PATTERN raises one of two errors or loads a profile of the table. -/
theorem loadPattern_cases (d i : Byte) (s : State) :
    (domainOf d = none ∧ loadPattern d i s = raiseError .cfgBadDomain s) ∨
    (∃ dom, domainOf d = some dom ∧ indexOf i = none ∧ loadPattern d i s = raiseError .cfgBadIndex s) ∨
    (∃ dom idx, domainOf d = some dom ∧ indexOf i = some idx ∧
      loadPattern d i s =
        { s with
          pwNs := (rom dom idx).pwNs
          priNs := (rom dom idx).priNs
          pulseCount := (rom dom idx).pulseCount
          countsValid := false }) := by
  unfold loadPattern
  cases hd : domainOf d with
  | none => exact .inl ⟨rfl, rfl⟩
  | some dom =>
    cases hi : indexOf i with
    | none => exact .inr (.inl ⟨dom, rfl, rfl, by simp⟩)
    | some idx => exact .inr (.inr ⟨dom, idx, rfl, rfl, by simp⟩)

theorem abortEffect_cases (s : State) :
    ((s.state = .idle ∨ s.state = .error) ∧ abortEffect s = s) ∨
    (s.state = .computing ∧
      abortEffect s = { endOpenStream s with startPending := false, state := .idle, aborted := true }) ∨
    (s.state = .emitting ∧ abortEffect s = { endOpenStream s with state := .idle, aborted := true }) := by
  cases h : s.state <;> simp [abortEffect, h]

/-- The Core step raises an error, leaves for EMITTING, or returns to IDLE; outside COMPUTING it is no step. -/
theorem coreStep_cases (s : State) :
    (s.state ≠ .computing ∧ coreStep s = s) ∨
    (s.state = .computing ∧ ∃ c, quantizeState s = .error c ∧ coreStep s = raiseError c s) ∨
    (s.state = .computing ∧ s.startPending = true ∧ ∃ r, quantizeState s = .result r ∧
      coreStep s = { s with counts := storeCounts r, countsValid := true, startPending := false, state := .emitting }) ∨
    (s.state = .computing ∧ s.startPending = false ∧ ∃ r, quantizeState s = .result r ∧
      coreStep s = { s with counts := storeCounts r, countsValid := true, state := .idle }) := by
  unfold coreStep
  by_cases hc : s.state = .computing
  · cases hq : quantizeState s with
    | error c => exact .inr (.inl ⟨hc, c, rfl, by simp [hc]⟩)
    | result r =>
      cases hp : s.startPending with
      | true => exact .inr (.inr (.inl ⟨hc, rfl, r, rfl, by simp [hc]⟩))
      | false => exact .inr (.inr (.inr ⟨hc, rfl, r, rfl, by simp [hc]⟩))
  · exact .inl ⟨hc, by simp [hc]⟩

theorem emitterStep_cases {s t : State} (h : emitterStep s = .next t) :
    (s.state ≠ .emitting ∧ t = s) ∨
    (s.state = .emitting ∧ byteDefined (waveform s) s.pos.toNat = true ∧
      isLast (waveform s) s.pos.toNat = true ∧ t = complete (deliverByte s)) ∨
    (s.state = .emitting ∧ byteDefined (waveform s) s.pos.toNat = true ∧
      isLast (waveform s) s.pos.toNat = false ∧ t = deliverByte s) := by
  unfold emitterStep at h
  by_cases he : s.state = .emitting
  · cases hb : byteDefined (waveform s) s.pos.toNat
    · simp [he, hb] at h
    · cases hl : isLast (waveform s) s.pos.toNat
      · exact .inr (.inr ⟨he, rfl, rfl, by simpa [he, hb, hl] using h.symm⟩)
      · exact .inr (.inl ⟨he, rfl, rfl, by simpa [he, hb, hl] using h.symm⟩)
  · exact .inl ⟨he, by simpa [he] using h.symm⟩

/-- The only fault: an Emitter step where no byte is defined. -/
theorem emitterStep_fault {s : State} {f : Fault} (h : emitterStep s = .fault f) :
    s.state = .emitting ∧ byteDefined (waveform s) s.pos.toNat = false := by
  unfold emitterStep at h
  by_cases he : s.state = .emitting
  · cases hb : byteDefined (waveform s) s.pos.toNat
    · exact ⟨he, rfl⟩
    · simp [he, hb] at h
  · simp [he] at h

theorem emitterStep_not_refused (s : State) (r : Refusal) : emitterStep s ≠ .refused r := by
  unfold emitterStep
  split
  · split <;> simp
  · simp

theorem sinkErrorStep_cases (s : State) :
    (s.state = .emitting ∧ sinkErrorStep s = raiseError .ioSink s) ∨ (s.state ≠ .emitting ∧ sinkErrorStep s = s) := by
  unfold sinkErrorStep
  by_cases h : s.state = .emitting <;> simp [h]

/-- The accesses that reject, as 43_control R221 lists them, for a write. -/
def writeRejects (addr : Byte) (v : Word) (s : State) : Prop :=
  misaligned addr = true ∨
  (regAt addr = some .cmd ∧ ∃ why, decode v = .illegal why) ∨
  (regAt addr = some .cmd ∧ ∃ i, decode v = .command i ∧ accepted i s.state = false) ∨
  (∃ r, regAt addr = some r ∧ isConfig r = true ∧ busy s = true)

/-- A write rejects, is ignored, performs a command, or writes STATUS, IRQ_EN or a configuration register. -/
theorem memWrite_cases {addr : Byte} {v : Word} {s t : State} (h : memWrite addr v s = .next t) :
    (writeRejects addr v s ∧ t = reject s) ∨
    (misaligned addr = false ∧ t = s ∧
      (regAt addr = none ∨
        ∃ r, regAt addr = some r ∧ r ≠ .cmd ∧ r ≠ .status ∧ r ≠ .irqEn ∧ isConfig r = false)) ∨
    (misaligned addr = false ∧ regAt addr = some .cmd ∧
      ∃ i, decode v = .command i ∧ accepted i s.state = true ∧ t = effectOf i s) ∨
    (misaligned addr = false ∧ regAt addr = some .status ∧ t = writeStatus v s) ∨
    (misaligned addr = false ∧ regAt addr = some .irqEn ∧ t = writeIrqEn v s) ∨
    (misaligned addr = false ∧ ∃ r, regAt addr = some r ∧ isConfig r = true ∧ busy s = false ∧
      t = noteTimingWrite r (setConfig r v s)) := by
  unfold memWrite at h
  cases hm : misaligned addr with
  | true => simp [hm] at h; exact .inl ⟨.inl hm, h.symm⟩
  | false =>
    simp only [hm] at h
    cases hr : regAt addr with
    | none => simp [hr] at h; exact .inr (.inl ⟨rfl, h.symm, .inl rfl⟩)
    | some r =>
      simp only [hr] at h
      by_cases hcmd : r = .cmd
      · subst hcmd
        simp only [writeReg, writeCommand] at h
        cases hd : decode v with
        | illegal why =>
          simp [hd] at h
          exact .inl ⟨.inr (.inl ⟨hr, why, hd⟩), h.symm⟩
        | command i =>
          simp [hd] at h
          rcases exec_cases h with ⟨ha, ht⟩ | ⟨ha, ht⟩
          · exact .inr (.inr (.inl ⟨rfl, rfl, i, rfl, ha, ht⟩))
          · exact .inl ⟨.inr (.inr (.inl ⟨hr, i, hd, ha⟩)), ht⟩
      · by_cases hst : r = .status
        · subst hst
          simp [writeReg] at h
          exact .inr (.inr (.inr (.inl ⟨rfl, rfl, h.symm⟩)))
        · by_cases hirq : r = .irqEn
          · subst hirq
            simp [writeReg] at h
            exact .inr (.inr (.inr (.inr (.inl ⟨rfl, rfl, h.symm⟩))))
          · have hw : writeReg r v s = .next (if isConfig r then writeConfig r v s else s) := by
              cases r <;> first | rfl | exact absurd rfl hcmd | exact absurd rfl hst | exact absurd rfl hirq
            rw [hw] at h
            injection h with h
            cases hc : isConfig r with
            | false =>
              refine .inr (.inl ⟨rfl, by simpa [hc] using h.symm, .inr ⟨r, rfl, hcmd, hst, hirq, hc⟩⟩)
            | true =>
              simp only [hc] at h
              cases hb : busy s with
              | true =>
                refine .inl ⟨.inr (.inr (.inr ⟨r, hr, hc, hb⟩)), ?_⟩
                simpa [writeConfig, hb] using h.symm
              | false =>
                refine .inr (.inr (.inr (.inr (.inr ⟨rfl, r, rfl, hc, rfl, ?_⟩))))
                simpa [writeConfig, hb] using h.symm

/-- A write always answers a next state. -/
theorem memWrite_next (addr : Byte) (v : Word) (s : State) : ∃ t, memWrite addr v s = .next t := by
  unfold memWrite
  split
  · exact ⟨_, rfl⟩
  · split
    · exact ⟨_, rfl⟩
    · rename_i r _
      unfold writeReg
      split
      · unfold writeCommand
        split
        · exact ⟨_, exec_eq _ _⟩
        · exact ⟨_, rfl⟩
      all_goals exact ⟨_, rfl⟩

/-- A read rejects, loads the latch, or leaves the state alone. -/
theorem memReadState_cases (addr : Byte) (s : State) :
    (misaligned addr = true ∧ memReadState addr s = reject s) ∨
    (misaligned addr = false ∧ regAt addr = some .emitBytesLo ∧
      memReadState addr s = { s with emitHiLatch := highHalf s.pos }) ∨
    (misaligned addr = false ∧ regAt addr ≠ some .emitBytesLo ∧ memReadState addr s = s) := by
  unfold memReadState
  cases hm : misaligned addr with
  | true => exact .inl ⟨rfl, rfl⟩
  | false =>
    cases hr : regAt addr with
    | none => exact .inr (.inr ⟨rfl, by simp, by simp⟩)
    | some r =>
      by_cases he : r = .emitBytesLo
      · subst he
        exact .inr (.inl ⟨rfl, rfl, by simp [readEffect]⟩)
      · refine .inr (.inr ⟨rfl, by simpa using he, ?_⟩)
        cases r <;> first | rfl | exact absurd rfl he

/-- A turn of the Host does nothing, reads, or writes; a polling round is a read of STATUS. -/
theorem hostStep_cases {s t : State} (h : hostStep s = .next t) :
    (s.hostProgram = [] ∧ t = s) ∨
    (∃ addr rest p, (s.hostProgram = .read addr :: rest ∧ p = rest ∨
        (s.hostProgram = .waitNotBusy :: rest ∨ s.hostProgram = .waitCompute :: rest) ∧ addr = regOffset .status) ∧
      t = readAndRecord addr { s with hostProgram := p }) ∨
    (∃ addr v rest, s.hostProgram = .write addr v :: rest ∧ memWrite addr v { s with hostProgram := rest } = .next t) := by
  unfold hostStep at h
  cases hp : s.hostProgram with
  | nil => simp [hp] at h; exact .inl ⟨rfl, h.symm⟩
  | cons op rest =>
    simp only [hp] at h
    cases op with
    | read addr =>
      simp [performHostOp] at h
      exact .inr (.inl ⟨addr, rest, rest, .inl ⟨rfl, rfl⟩, h.symm⟩)
    | write addr v => exact .inr (.inr ⟨addr, v, rest, rfl, h⟩)
    | waitNotBusy =>
      simp [performHostOp] at h
      exact .inr (.inl ⟨_, rest, _, .inr ⟨.inl rfl, rfl⟩, h.symm⟩)
    | waitCompute =>
      simp [performHostOp] at h
      exact .inr (.inl ⟨_, rest, _, .inr ⟨.inr rfl, rfl⟩, h.symm⟩)

theorem hostStep_next (s : State) : ∃ t, hostStep s = .next t := by
  unfold hostStep
  split
  · exact ⟨_, rfl⟩
  · rename_i op rest _
    cases op with
    | write addr v => exact memWrite_next _ _ _
    | read addr => exact ⟨_, rfl⟩
    | waitNotBusy => exact ⟨_, rfl⟩
    | waitCompute => exact ⟨_, rfl⟩

/-- Everything one step can do. -/
theorem step_cases {s t : State} (h : step s = .next t) :
    (s.schedule = [] ∧ s.state ≠ .computing ∧ t = s) ∨
    (s.schedule = [] ∧ s.state = .computing ∧ t = coreStep (countRace s)) ∨
    (∃ turns, s.schedule = .host :: turns ∧ hostStep { s with schedule := turns } = .next t) ∨
    (∃ turns, s.schedule = .core :: turns ∧ t = coreStep (countRace { s with schedule := turns })) ∨
    (∃ turns, s.schedule = .sinkAccept :: turns ∧ emitterStep (countRace { s with schedule := turns }) = .next t) ∨
    (∃ turns, s.schedule = .sinkError :: turns ∧ t = sinkErrorStep (countRace { s with schedule := turns })) ∨
    (∃ turns, s.schedule = .hardReset :: turns ∧ t = hardResetStep (countRace { s with schedule := turns })) := by
  unfold step runSchedule at h
  cases hs : s.schedule with
  | nil =>
    simp only [hs, idleTurn] at h
    by_cases hc : s.state = .computing
    · simp [hc, takeTurn] at h
      exact .inr (.inl ⟨rfl, hc, h.symm⟩)
    · simp [hc] at h
      exact .inl ⟨rfl, hc, h.symm⟩
  | cons turn turns =>
    simp only [hs, takeTurn] at h
    cases turn with
    | host => exact .inr (.inr (.inl ⟨turns, rfl, h⟩))
    | core => simp at h; exact .inr (.inr (.inr (.inl ⟨turns, rfl, h.symm⟩)))
    | sinkAccept => exact .inr (.inr (.inr (.inr (.inl ⟨turns, rfl, h⟩))))
    | sinkError => simp at h; exact .inr (.inr (.inr (.inr (.inr (.inl ⟨turns, rfl, h.symm⟩)))))
    | hardReset => simp at h; exact .inr (.inr (.inr (.inr (.inr (.inr ⟨turns, rfl, h.symm⟩)))))

/-- The word of the next command reaches `exec` in the host step that writes it (30_encoding R100). -/
theorem memWrite_command {w : Word} {i : Instr} (hd : decode w = .command i) (s : State) :
    memWrite (regOffset .cmd) w s = exec i s := by
  simp [memWrite, show misaligned (regOffset .cmd) = false by decide,
    show regAt (regOffset .cmd) = some .cmd by decide, writeReg, writeCommand, hd]

end Sys2Proof.Machine
end

