-- ==== Sys2Proof/Laws/PerInstr.lean ====
section
/-! SUPPORT. The statements made per instruction, one lemma per constructor of `Instr`: the encoder's word of a command
selects its own row of the match and mask table of 30_encoding R102 and no other. -/

namespace Sys2Proof.Laws.EncodesItsRow

/-- The word of `i` selects exactly the row of its mnemonic (30_encoding R102). -/
def Statement (i : Instr) : Prop :=
  i.wellFormed = true → ∀ row ∈ opcodeRows, row.selects (encode i) = true ↔ row.mnemonic = mnemonicOf i

theorem nop : Statement .nop := by unfold Statement; decide

theorem compute : Statement .compute := by unfold Statement; decide

theorem start : Statement .start := by unfold Statement; decide

theorem abort : Statement .abort := by unfold Statement; decide

theorem clear : Statement .clear := by unfold Statement; decide

theorem reset : Statement .reset := by unfold Statement; decide

/-- OP of the word of LOAD_PATTERN is 0x01 whatever its operands. -/
theorem opField_loadPattern (d i : Byte) : opField (encode (.loadPattern d i)) = 0x01#8 := by
  apply BitVec.eq_of_getLsbD_eq
  intro k hk
  interval_cases k <;> simp [opField, encode, operandsOf, opcodeOf]

/-- The word of LOAD_PATTERN under its row's mask. -/
theorem mask_loadPattern (d i : Byte) : encode (.loadPattern d i) &&& 0xFF0000FF#32 = 0x00000001#32 := by
  apply BitVec.eq_of_getLsbD_eq
  intro k hk
  interval_cases k <;> simp [encode, operandsOf, opcodeOf]

theorem loadPattern (d i : Byte) : Statement (.loadPattern d i) := by
  intro _
  have hop := opField_loadPattern d i
  have other : ∀ m : Word, opField m ≠ 0x01#8 →
      (encode (.loadPattern d i) &&& 0xFFFFFFFF#32 == m) = false := by
    intro m hm
    have hall : encode (.loadPattern d i) &&& 0xFFFFFFFF#32 = encode (.loadPattern d i) :=
      BitVec.and_allOnes (x := encode (.loadPattern d i))
    rw [hall]
    refine beq_eq_false_iff_ne.mpr fun h => hm ?_
    rw [← h, hop]
  intro row hrow
  simp only [opcodeRows, List.mem_cons, List.not_mem_nil, or_false] at hrow
  rcases hrow with rfl | rfl | rfl | rfl | rfl | rfl | rfl
  · simpa [OpcodeRow.selects, mnemonicOf] using other 0 (by decide)
  · simp [OpcodeRow.selects, mnemonicOf, mask_loadPattern d i]
  all_goals simpa [OpcodeRow.selects, mnemonicOf] using other _ (by decide)

end Sys2Proof.Laws.EncodesItsRow
end

