-- ==== Sys2Proof/Laws/Step.lean ====
section
/-! SUPPORT. The whole of one step in one lemma, `step_effect`: the state `u` the turn is taken in differs from `s` in the
environment's lists and the model's counter alone, and `t` is `u` after one named update. Every statement about all steps
is a case analysis over it. -/

namespace Sys2Proof.Machine

/-- `u` is `s` but for the schedule, the accesses to come and the model's counter. -/
def sameBlock (s u : State) : Prop :=
  ∃ turns prog k, u = { s with schedule := turns, hostProgram := prog, raceStep := k }

theorem sameBlock_state {s u : State} (h : sameBlock s u) : u.state = s.state := by
  obtain ⟨_, _, _, rfl⟩ := h; rfl
theorem sameBlock_startPending {s u : State} (h : sameBlock s u) : u.startPending = s.startPending := by
  obtain ⟨_, _, _, rfl⟩ := h; rfl
theorem sameBlock_countsValid {s u : State} (h : sameBlock s u) : u.countsValid = s.countsValid := by
  obtain ⟨_, _, _, rfl⟩ := h; rfl
theorem sameBlock_done {s u : State} (h : sameBlock s u) : u.done = s.done := by
  obtain ⟨_, _, _, rfl⟩ := h; rfl
theorem sameBlock_aborted {s u : State} (h : sameBlock s u) : u.aborted = s.aborted := by
  obtain ⟨_, _, _, rfl⟩ := h; rfl
theorem sameBlock_rejected {s u : State} (h : sameBlock s u) : u.rejected = s.rejected := by
  obtain ⟨_, _, _, rfl⟩ := h; rfl
theorem sameBlock_errCause {s u : State} (h : sameBlock s u) : u.errCause = s.errCause := by
  obtain ⟨_, _, _, rfl⟩ := h; rfl
theorem sameBlock_irqEn {s u : State} (h : sameBlock s u) : u.irqEn = s.irqEn := by
  obtain ⟨_, _, _, rfl⟩ := h; rfl
theorem sameBlock_onLevel {s u : State} (h : sameBlock s u) : u.onLevel = s.onLevel := by
  obtain ⟨_, _, _, rfl⟩ := h; rfl
theorem sameBlock_sampleRate {s u : State} (h : sameBlock s u) : u.sampleRate = s.sampleRate := by
  obtain ⟨_, _, _, rfl⟩ := h; rfl
theorem sameBlock_pwNs {s u : State} (h : sameBlock s u) : u.pwNs = s.pwNs := by
  obtain ⟨_, _, _, rfl⟩ := h; rfl
theorem sameBlock_priNs {s u : State} (h : sameBlock s u) : u.priNs = s.priNs := by
  obtain ⟨_, _, _, rfl⟩ := h; rfl
theorem sameBlock_pulseCount {s u : State} (h : sameBlock s u) : u.pulseCount = s.pulseCount := by
  obtain ⟨_, _, _, rfl⟩ := h; rfl
theorem sameBlock_burstPeriodNs {s u : State} (h : sameBlock s u) : u.burstPeriodNs = s.burstPeriodNs := by
  obtain ⟨_, _, _, rfl⟩ := h; rfl
theorem sameBlock_minDurationNs {s u : State} (h : sameBlock s u) : u.minDurationNs = s.minDurationNs := by
  obtain ⟨_, _, _, rfl⟩ := h; rfl
theorem sameBlock_counts {s u : State} (h : sameBlock s u) : u.counts = s.counts := by
  obtain ⟨_, _, _, rfl⟩ := h; rfl
theorem sameBlock_pos {s u : State} (h : sameBlock s u) : u.pos = s.pos := by
  obtain ⟨_, _, _, rfl⟩ := h; rfl
theorem sameBlock_emitHiLatch {s u : State} (h : sameBlock s u) : u.emitHiLatch = s.emitHiLatch := by
  obtain ⟨_, _, _, rfl⟩ := h; rfl
theorem sameBlock_hostReads {s u : State} (h : sameBlock s u) : u.hostReads = s.hostReads := by
  obtain ⟨_, _, _, rfl⟩ := h; rfl
theorem sameBlock_sinkRecord {s u : State} (h : sameBlock s u) : u.sinkRecord = s.sinkRecord := by
  obtain ⟨_, _, _, rfl⟩ := h; rfl

/-- The event and the update of one step, taken in `u`. -/
inductive StepEffect (s u t : State) : Prop where
  | idle (e : s.schedule = [] ∧ s.state ≠ .computing ∨ nextTurnIs s .host ∧ s.hostProgram = []) (h : t = u)
  | read (addr : Byte) (e : nextTurnIs s .host) (v : Word)
      (a : nextAccessIs s (.read addr) ∨ addr = regOffset .status)
      (h : t = { memReadState addr u with hostReads := u.hostReads ++ [(addr, v)] })
  | rejected (addr : Byte) (v : Word) (e : nextAccessIs s (.write addr v)) (why : writeRejects addr v u)
      (h : t = reject u)
  | ignored (addr : Byte) (v : Word) (e : nextAccessIs s (.write addr v)) (h : t = u)
  | command (i : Instr) (e : nextIsCommand s i) (a : accepted i u.state = true) (h : t = effectOf i u)
  | status (v : Word) (e : nextAccessIs s (.write (regOffset .status) v)) (h : t = writeStatus v u)
  | irqEn (v : Word) (e : nextAccessIs s (.write (regOffset .irqEn) v)) (h : t = writeIrqEn v u)
  | config (r : Reg) (v : Word) (e : nextAccessIs s (.write (regOffset r) v)) (c : isConfig r = true)
      (b : busy u = false) (h : t = noteTimingWrite r (setConfig r v u))
  | core (e : nextIsCore s) (h : t = coreStep u)
  | accept (e : nextTurnIs s .sinkAccept) (h : emitterStep u = .next t)
  | sinkError (e : nextTurnIs s .sinkError) (h : t = sinkErrorStep u)
  | hardReset (e : nextTurnIs s .hardReset) (h : t = hardResetStep u)

/-- The register an offset selects has that offset. -/
theorem regAt_some {addr : Byte} {r : Reg} (h : regAt addr = some r) : addr = regOffset r := by
  have := List.find?_some h
  simpa using (beq_iff_eq.mp this).symm

/-- Every register is found at its own offset. -/
theorem regAt_offset (r : Reg) : regAt (regOffset r) = some r := by cases r <;> decide

/-- Every register's offset is word aligned. -/
theorem aligned_offset (r : Reg) : misaligned (regOffset r) = false := by cases r <;> decide

theorem step_effect {s t : State} (h : step s = .next t) : ∃ u, sameBlock s u ∧ StepEffect s u t := by
  rcases step_cases h with ⟨hs, hn, rfl⟩ | ⟨hs, hc, rfl⟩ | ⟨turns, hs, h⟩ | ⟨turns, hs, rfl⟩ | ⟨turns, hs, h⟩ |
    ⟨turns, hs, rfl⟩ | ⟨turns, hs, rfl⟩
  · exact ⟨t, ⟨_, _, _, rfl⟩, .idle (.inl ⟨hs, hn⟩) rfl⟩
  · exact ⟨countRace s, ⟨_, _, _, rfl⟩, .core (.inl hs) rfl⟩
  · have hh : nextTurnIs s .host := ⟨turns, hs⟩
    rcases hostStep_cases h with ⟨hp, rfl⟩ | ⟨addr, rest, p, hp, rfl⟩ | ⟨addr, v, rest, hp, hw⟩
    · exact ⟨{ s with schedule := turns }, ⟨_, _, _, rfl⟩, .idle (.inr ⟨hh, hp⟩) rfl⟩
    · refine ⟨{ s with schedule := turns, hostProgram := p }, ⟨_, _, _, rfl⟩, .read addr hh _ ?_ rfl⟩
      rcases hp with ⟨hp, -⟩ | ⟨-, rfl⟩
      · exact .inl ⟨hh, rest, hp⟩
      · exact .inr rfl
    · have ha : nextAccessIs s (.write addr v) := ⟨hh, rest, hp⟩
      refine ⟨{ s with schedule := turns, hostProgram := rest }, ⟨_, _, _, rfl⟩, ?_⟩
      rcases memWrite_cases hw with ⟨hr, rfl⟩ | ⟨-, rfl, -⟩ | ⟨-, hr, i, hd, hac, rfl⟩ | ⟨-, hr, rfl⟩ | ⟨-, hr, rfl⟩ |
        ⟨-, r, hr, hc, hb, rfl⟩
      · exact .rejected addr v ha hr rfl
      · exact .ignored addr v ha rfl
      · exact .command i ⟨v, regAt_some hr ▸ ha, hd⟩ hac rfl
      · exact .status v (regAt_some hr ▸ ha) rfl
      · exact .irqEn v (regAt_some hr ▸ ha) rfl
      · exact .config r v (regAt_some hr ▸ ha) hc hb rfl
  · exact ⟨countRace { s with schedule := turns }, ⟨_, _, _, rfl⟩, .core (.inr ⟨turns, hs⟩) rfl⟩
  · exact ⟨countRace { s with schedule := turns }, ⟨_, _, _, rfl⟩, .accept ⟨turns, hs⟩ h⟩
  · exact ⟨countRace { s with schedule := turns }, ⟨_, _, _, rfl⟩, .sinkError ⟨turns, hs⟩ rfl⟩
  · exact ⟨countRace { s with schedule := turns }, ⟨_, _, _, rfl⟩, .hardReset ⟨turns, hs⟩ rfl⟩

/-- A run of `k + 1` steps whose first step answers `t` is the run of `k` steps from `t`. -/
theorem run_succ {s t : State} (h : step s = .next t) (k : Nat) : core.run (k + 1) s = core.run k t := by
  have hc : core.step s = .next t := h
  simp only [Host.Core.run, hc]

/-- A run of no steps stays where it is. -/
theorem run_zero (s : State) : core.run 0 s = .next s := rfl

end Sys2Proof.Machine
end

