-- ==== Sys2Proof/Laws/Registers.lean ====
section
/-! SUPPORT. What reads of the registers return: the read of a register at its offset, the bits of STATUS, the two halves
of a 64-bit register after one of them is written. -/

namespace Sys2Proof.Machine

/-- A read at a register's own offset reads that register. -/
theorem memReadValue_offset (r : Reg) (s : State) : memReadValue (regOffset r) s = readReg r s := by
  simp [memReadValue, aligned_offset, regAt_offset]

theorem memReadState_offset (r : Reg) (s : State) : memReadState (regOffset r) s = readEffect r s := by
  simp [memReadState, aligned_offset, regAt_offset]

theorem memWrite_offset (r : Reg) (v : Word) (s : State) : memWrite (regOffset r) v s = writeReg r v s := by
  simp [memWrite, aligned_offset, regAt_offset]

/-- Bit `k` of the STATUS word (10_state R24). -/
theorem statusWord_bit (s : State) {k : Nat} (hk : k < 32) :
    (statusWord s).getLsbD k =
      if k = 0 then (runStateCode s.state).getLsbD 0
      else if k = 1 then (runStateCode s.state).getLsbD 1
      else if k = 2 then s.countsValid
      else if k = 3 then s.startPending
      else if k = 4 then s.done
      else if k = 5 then s.aborted
      else if k = 6 then s.rejected
      else if k = 7 then errFlag s
      else false := by
  interval_cases k <;> simp [statusWord, flagBit]

/-- Two words are equal when their bits are. -/
theorem half_ext {a b : Word} (h : ∀ k, k < 32 → a.getLsbD k = b.getLsbD k) : a = b := BitVec.eq_of_getLsbD_eq h

@[simp] theorem lowHalf_setLowHalf (a : DWord) (v : Word) : lowHalf (setLowHalf a v) = v := by
  refine half_ext fun k hk => ?_
  have h64 : k < 64 := by omega
  simp [lowHalf, highHalf, setLowHalf, joinHalves, hk, h64]

@[simp] theorem highHalf_setLowHalf (a : DWord) (v : Word) : highHalf (setLowHalf a v) = highHalf a := by
  refine half_ext fun k hk => ?_
  have h32 : 32 + k < 64 := by omega
  simp [highHalf, setLowHalf, joinHalves, hk, h32]

@[simp] theorem lowHalf_setHighHalf (a : DWord) (v : Word) : lowHalf (setHighHalf a v) = lowHalf a := by
  refine half_ext fun k hk => ?_
  have h64 : k < 64 := by omega
  simp [lowHalf, setHighHalf, joinHalves, hk, h64]

@[simp] theorem highHalf_setHighHalf (a : DWord) (v : Word) : highHalf (setHighHalf a v) = v := by
  refine half_ext fun k hk => ?_
  have h32 : 32 + k < 64 := by omega
  simp [highHalf, lowHalf, setHighHalf, joinHalves, hk, h32]

/-- The two halves of a 64-bit value make it up. -/
theorem joinHalves_halves (a : DWord) : joinHalves (highHalf a) (lowHalf a) = a := by
  apply BitVec.eq_of_getLsbD_eq
  intro k hk
  by_cases h : k < 32
  · simp [joinHalves, highHalf, lowHalf, h, hk]
  · simp [joinHalves, highHalf, lowHalf, h, hk, show k - 32 < 32 by omega, show 32 + (k - 32) = k by omega]

theorem busy_iff (s : State) : busy s = true ↔ s.state = .computing ∨ s.state = .emitting := by
  cases h : s.state <;> simp [busy, h]

theorem streaming_iff (s : State) :
    streaming s = true ↔ s.state = .emitting ∨ s.state = .computing ∧ s.startPending = true := by
  cases h : s.state <;> simp [streaming, h]

end Sys2Proof.Machine
end

