-- ==== Sys2Proof/Tests/Slice0.lean ====
section
/-! SUPPORT. Tests: words and vectors of spec/95_test_vectors.md (the row is named in each comment) and 30_encoding R110,
and the WITNESSES: for every statement with hypotheses, a concrete state and operands that meet them together. -/

namespace Sys2Proof.Tests

open Sys2Proof Sys2Proof.Machine

/-- The next state of an outcome, if there is one. -/
def nextOf (o : Host.Outcome State Fault Refusal) : Option State :=
  match o with
  | .next t => some t
  | .fault _ => none
  | .refused _ => none

/-- STATUS and ERR_CAUSE after a command word reaches CMD through the step. -/
def statusAfter (w : Nat) (s : State) : Option (Word × Byte) :=
  (nextOf (step (s.withFetchWord 32 w))).map fun t => (statusWord t, causeCode t.errCause)

/-! ## Decoding, word by word from the encoding tables (30_encoding R101, R102, R110) -/

theorem test_decode_nop : decode 0b00000000_00000000_00000000_00000000 = .command .nop := by decide
theorem test_decode_load_pattern : decode 0b00000000_00000100_00000001_00000001 = .command (.loadPattern 1 4) := by decide
theorem test_decode_compute : decode 0b00000000_00000000_00000000_00000010 = .command .compute := by decide
theorem test_decode_start : decode 0b00000000_00000000_00000000_00000011 = .command .start := by decide
theorem test_decode_abort : decode 0b00000000_00000000_00000000_00000100 = .command .abort := by decide
theorem test_decode_clear : decode 0b00000000_00000000_00000000_00000101 = .command .clear := by decide
theorem test_decode_reset : decode 0b00000000_00000000_00000000_00000110 = .command .reset := by decide

/-- T1-06, T1-09, T1-10, T1-14, T1-17. -/
theorem test_decode_illegal :
    decode 0x01010001 = .illegal .reservedField ∧ decode 0x00000103 = .illegal .operandNotZero ∧
    decode 0x00010003 = .illegal .operandNotZero ∧ decode 0x00000007 = .illegal .reservedOpcode ∧
    decode 0xFFFFFFFF = .illegal .reservedField := by decide

theorem test_decode_table_words :
    decodeTableWord 32 0x00000000 = some .nop ∧ decodeTableWord 32 0x00030101 = some (.loadPattern 1 3) ∧
    decodeTableWord 32 0x00000002 = some .compute ∧ decodeTableWord 32 0x00000003 = some .start ∧
    decodeTableWord 32 0x00000004 = some .abort ∧ decodeTableWord 32 0x00000005 = some .clear ∧
    decodeTableWord 32 0x00000006 = some .reset ∧ decodeTableWord 32 0x00000007 = none := by decide

theorem test_decode_short_table_word : decodeTableWord 8 0x103 = some .start := by decide

/-! ## WellFormed: an ill-formed line for each check (30_encoding R107, R108) -/

theorem test_wf_wr_value_too_wide : (HostLine.wr .pwNs (2 ^ 32)).wellFormed = false := by decide
theorem test_wf_cmd_needs_no_operand : (HostLine.cmd (.loadPattern 0 1)).wellFormed = false := by decide
theorem test_wf_domain_too_wide : (HostLine.cmdLoadPattern 256 1).wellFormed = false := by decide
theorem test_wf_index_too_wide : (HostLine.cmdLoadPattern 0 256).wellFormed = false := by decide
theorem test_wf_wr64_read_only : (HostLine.wr64 .emitBytes 0).wellFormed = false := by decide
theorem test_wf_wr64_value_too_wide : (HostLine.wr64 .burstPeriodNs (2 ^ 64)).wellFormed = false := by decide
theorem test_wf_w1c_mask_too_wide : (HostLine.w1c (2 ^ 32)).wellFormed = false := by decide
theorem test_wf_good_lines :
    (HostLine.wr .pwNs (2 ^ 32 - 1)).wellFormed = true ∧ (HostLine.cmdLoadPattern 255 255).wellFormed = true ∧
    (HostLine.wr64 .minDurationNs (2 ^ 64 - 1)).wellFormed = true ∧ (HostLine.cmd .start).wellFormed = true := by decide

/-! ## States -/

/-- The configuration of program P2 (W5, T3-14), in IDLE. -/
def framing : State :=
  { State.reset with
    sampleRate := 1000000, pwNs := 10000, priNs := 100000, pulseCount := 3, burstPeriodNs := 350000, minDurationNs := 0 }

/-- The result of T3-14. -/
def framingResult : QuantResult :=
  { pulseSamples := 10, priSamples := 100, padSamples := 50, totalBurstSamples := 350, burstCount := 1,
    totalSamples := 350, totalBurstTime := 300000, effectiveCycle := 350000, padTime := 50000 }

/-- P2 in COMPUTING for a START. -/
def starting : State := { framing with state := .computing, startPending := true }

/-- P2 in COMPUTING for a COMPUTE. -/
def computing : State := { framing with state := .computing }

/-- P2 in EMITTING with `p` bytes accepted. -/
def emittingAt (p : Nat) : State :=
  { framing with
    state := .emitting, countsValid := true, counts := storeCounts framingResult, pos := BitVec.ofNat 64 p }

/-- The smallest stream, T3-11 (T4-08), with one byte of its two accepted. -/
def tinyResult : QuantResult :=
  { pulseSamples := 0, priSamples := 1, padSamples := 0, totalBurstSamples := 1, burstCount := 1, totalSamples := 1,
    totalBurstTime := 500, effectiveCycle := 500, padTime := 0 }

/-- The configuration of T3-11, in IDLE. -/
def tiny : State :=
  { State.reset with
    sampleRate := 1000000, pwNs := 499, priNs := 500, pulseCount := 1, burstPeriodNs := 0, minDurationNs := 0 }

/-- T3-11 in EMITTING with no byte accepted. -/
def tinyEmitting : State :=
  { tiny with state := .emitting, countsValid := true, counts := storeCounts tinyResult }

/-- T3-11 in EMITTING with the first byte accepted: the next is the final one. -/
def tinyLast : State := { tinyEmitting with pos := 1, sinkRecord := [.byte 0x00 false] }

/-- In ERROR with CFG_BAD_INDEX (T2-11). -/
def failed : State := { State.reset with state := .error, errCause := .cfgBadIndex }

/-- `s` with the next turn the Host's and `op` its next access. -/
def hostNext (op : HostOp) (s : State) : State := { s with schedule := [.host], hostProgram := [op] }

/-! ## Commands through the step, from reset (T1, T2, T5) -/

/-- T1-01. -/
theorem test_nop : statusAfter 0x00000000 State.reset = some (0x00, 0) := by decide
/-- T1-19. -/
theorem test_nop_emitting : statusAfter 0x00000000 (emittingAt 5) = some (0x06, 0) := by decide

/-- T2-07. -/
theorem test_load_pattern :
    (nextOf (step (State.reset.withFetchWord 32 0x00030101))).map (fun t => (t.pwNs, t.priNs, t.pulseCount))
      = some (8000, 350000, 17) := by decide
/-- T2-12, T2-11: the domain is checked first. -/
theorem test_load_pattern_errors :
    statusAfter 0x00090201 State.reset = some (0x83, 1) ∧ statusAfter 0x00050101 State.reset = some (0x83, 2) := by decide

/-- T1-07, T5-14. -/
theorem test_compute :
    statusAfter 0x00000002 State.reset = some (0x01, 0) ∧ statusAfter 0x00000002 failed = some (0xC3, 2) := by decide
/-- T3-14 entered by COMPUTE: the Core step with no turn left. -/
theorem test_compute_core_step :
    (nextOf (step computing)).map (fun t => (statusWord t, t.counts)) = some (0x04, storeCounts framingResult) := by decide +kernel

/-- T1-08, T5-06. -/
theorem test_start :
    statusAfter 0x00000003 State.reset = some (0x09, 0) ∧ statusAfter 0x00000003 starting = some (0x49, 0) := by decide
/-- T5-10, 70_reset_and_hazards R292: START before any configuration. -/
theorem test_start_unconfigured :
    (nextOf (step { State.reset with state := .computing, startPending := true })).map
      (fun t => (statusWord t, t.errCause, t.sinkRecord)) = some (0x83, .cfgRateZero, [.abort]) := by decide

/-- T5-03, T5-04, T5-11. -/
theorem test_abort_computing :
    (nextOf (step (starting.withFetchWord 32 4))).map (fun t => (statusWord t, t.sinkRecord)) = some (0x20, [.abort]) ∧
    (nextOf (step (computing.withFetchWord 32 4))).map (fun t => (statusWord t, t.sinkRecord)) = some (0x20, []) ∧
    statusAfter 4 failed = some (0x83, 2) := by decide
/-- T8-02. -/
theorem test_abort_emitting :
    (nextOf (step ((emittingAt 5).withFetchWord 32 4))).map (fun t => (statusWord t, t.pos, t.sinkRecord))
      = some (0x24, 5, [.abort]) := by decide

/-- T6-07, T5-05. -/
theorem test_clear : statusAfter 5 failed = some (0x00, 0) ∧ statusAfter 5 starting = some (0x49, 0) := by decide

/-- T8-06: the RESET command signals the abort marker and restores every register. -/
theorem test_reset_command :
    (nextOf (step ((emittingAt 101).withFetchWord 32 6))).map (fun t => (blockOf t, t.sinkRecord))
      = some (State.reset, [.abort]) := by decide
/-- T8-08: a hardware reset leaves no terminator. -/
theorem test_hardware_reset :
    (nextOf (step { emittingAt 101 with schedule := [.hardReset] })).map (fun t => (blockOf t, t.sinkRecord))
      = some (State.reset, []) := by decide

/-- T1-18: an illegal word is not performed with its operand ignored. -/
theorem test_illegal : statusAfter 0x00000106 (emittingAt 5) = some (0x46, 0) := by decide

/-! ## Quantization (T3) -/

/-- T3-08: half rounds up. -/
theorem test_half_rounds_up : (computeCounts 1000000 1500 3000 1 0 0).pulseSamples = 2 := by decide
/-- T3-14, T3-11. -/
theorem test_quantize_framing :
    quantize 1000000 10000 100000 3 350000 0 = .result framingResult ∧
    quantize 1000000 499 500 1 0 0 = .result tinyResult := by decide
/-- T3-20, 41_synthesis R178: separately rounded parts. -/
theorem test_quantize_parts : (computeCounts 1000000 0 1500 2 5000 0).totalBurstSamples = 6 := by decide
/-- T3-03, T3-05, T3-07, T3-12, T3-21, T3-25. -/
theorem test_quantize_errors :
    quantize 0 0 0 0 (10 ^ 9) (10 ^ 9) = .error .cfgRateZero ∧
    quantize 1000000 2000 2000 0 (10 ^ 9) (10 ^ 9) = .error .cfgCountZero ∧
    quantize 1 5000 1000 1 (10 ^ 9) (10 ^ 9) = .error .cfgPwGePri ∧
    quantize 1000 25000 333000 20 (10 ^ 9) (10 ^ 9) = .error .cfgNoFit ∧
    quantize (2 ^ 32 - 1) 0 (2 ^ 32 - 1) 1 0 0 = .error .ovfSegment ∧
    quantize 1000000000 0 1 1 0 (2 ^ 63) = .error .ovfTotal := by decide
/-- T3-24: a total of exactly 2^63 - 1 is allowed. -/
theorem test_quantize_largest_total :
    quantize 1000000000 0 1 1 0 (2 ^ 63 - 1) =
      .result { pulseSamples := 0, priSamples := 1, padSamples := 0, totalBurstSamples := 1, burstCount := 2 ^ 63 - 1,
                totalSamples := 2 ^ 63 - 1, totalBurstTime := 1, effectiveCycle := 1, padTime := 0 } := by decide
/-- T3-15, T3-16: the burst count. -/
theorem test_burst_count :
    (computeCounts 1000000 10000 100000 5 500000000 1000000000).burstCount = 2 ∧
    (computeCounts 1000000 10000 100000 5 2000000000 1000000000).burstCount = 1 := by decide

/-! ## Emission (T4, T8) -/

/-- T4-01, the first burst of T3-26. -/
theorem test_stream_bytes :
    (List.range 24).map (streamByte
      { pulses := 2, pulseSamples := 2, priSamples := 5, burstSamples := 12, totalSamples := 24, on := 0x7F })
      = [0x7F, 0, 0x7F, 0, 0, 0, 0, 0, 0, 0, 0x7F, 0, 0x7F, 0, 0, 0, 0, 0, 0, 0, 0, 0, 0, 0] := by decide
/-- T4-05: the first on sample of slot 1 and the first off sample after it. -/
theorem test_stream_far_bytes :
    (let w : Waveform :=
      { pulses := 18, pulseSamples := 10, priSamples := 14280, burstSamples := 10000000, totalSamples := 10000000,
        on := 0x7F }
     (streamByte w 28560, streamByte w 28580, streamByte w 28561)) = (0x7F, 0x00, 0x00) := by decide
/-- T4-07, the loop form. -/
theorem test_loop_form : loopStream 1 1 2 3 0 0x7F = [0x7F, 0, 0x7F, 0, 0, 0] := by decide
/-- T4-08: the final byte of the smallest stream. -/
theorem test_final_byte :
    (nextOf (step { tinyLast with schedule := [.sinkAccept] })).map (fun t => (statusWord t, t.pos, t.sinkRecord))
      = some (0x14, 2, [.byte 0x00 false, .byte 0x00 true]) := by decide
/-- T8-05, T8-11: a sink error, and one in COMPUTING. -/
theorem test_sink_error :
    (nextOf (step { emittingAt 3 with schedule := [.sinkError] })).map
      (fun t => (statusWord t, t.errCause, t.pos, t.sinkRecord)) = some (0x87, .ioSink, 3, [.abort]) ∧
    (nextOf (step { starting with schedule := [.sinkError] })).map (fun t => (statusWord t, t.sinkRecord))
      = some (0x09, []) := by decide

/-! ## The register window (T6, T7) -/

/-- T7-01, T7-03, T7-05. -/
theorem test_reads :
    memReadValue 0x09 State.reset = 0 ∧ statusWord (memReadState 0x09 State.reset) = 0x40 ∧
    memReadValue 0x38 State.reset = 0 ∧ memReadValue 0xFC State.reset = 0 ∧ memReadValue 0x04 State.reset = 0 ∧
    memReadValue 0x00 State.reset = 0x52414452 := by decide
/-- T7-02: a misaligned write issues no command. -/
theorem test_misaligned_write : (nextOf (memWrite 0x06 6 framing)).map (fun t => (statusWord t, t.pwNs))
    = some (0x40, 10000) := by decide
/-- T7-07, T7-08, T7-09. -/
theorem test_writes :
    (nextOf (memWrite 0x14 0x1FF State.reset)).map (memReadValue 0x14) = some 0xFF ∧
    (nextOf (memWrite 0x10 0xFF State.reset)).map (memReadValue 0x10) = some 0x0F ∧
    (nextOf (memWrite 0x2C 1 State.reset)).map (fun t => t.burstPeriodNs) = some 5294967296 := by decide
/-- T5-19, T5-20, T5-18. -/
theorem test_config_writes :
    (nextOf (memWrite 0x14 0x40 { framing with countsValid := true })).map statusWord = some 0x04 ∧
    (nextOf (memWrite 0x14 0x10 (emittingAt 5))).map (fun t => (statusWord t, t.onLevel)) = some (0x46, 0x7F) ∧
    (nextOf (memWrite 0x1C 10000 { framing with countsValid := true })).map statusWord = some 0x00 := by decide
/-- T6-03, T6-04. -/
theorem test_status_write_and_irq :
    (nextOf (memWrite 0x08 0xFFFFFFFF { framing with countsValid := true, done := true })).map statusWord = some 0x04 ∧
    irq { framing with done := true } = false ∧
    (nextOf (memWrite 0x10 1 { framing with done := true })).map irq = some true := by decide
/-- T7-13: the read latch at `pos` = 2^32 + 5. -/
theorem test_read_latch :
    memReadValue 0x80 (emittingAt (2 ^ 32 + 5)) = 5 ∧
    memReadValue 0x84 (memReadState 0x80 (emittingAt (2 ^ 32 + 5))) = 1 := by decide
/-- 00_scope R11. -/
theorem test_s8 : s8 0x7F = 127 ∧ s8 0x80 = -128 ∧ s8 0xFF = -1 := by decide
/-- 20_memory R72: the byte lanes of 0x3B9ACA00. -/
theorem test_byte_lanes : (List.range 4).map (byteLane 0x3B9ACA00) = [0x00, 0xCA, 0x9A, 0x3B] := by decide
/-- 20_memory R73: the pairs a consumer reads. -/
theorem test_sample_pairs : samplePairs (bytesOf [.byte 0x7F false, .byte 0 false, .byte 0x7F false, .abort])
    = [(0x7F, 0)] := by decide

/-! ## Witnesses: concrete states that meet the invariants -/

/-- No turn is left, so none of these is the next. -/
theorem no_turn {s : State} (h : s.schedule = []) (a : Turn) : ¬ nextTurnIs s a := by
  rintro ⟨_, e⟩; rw [h] at e; cases e

theorem no_command {s : State} (h : s.schedule = []) (i : Instr) : ¬ nextIsCommand s i := by
  rintro ⟨_, ⟨a, _⟩, _⟩; exact no_turn h _ a

/-- The next turn is `a`, so it is no other. -/
theorem other_turn {s : State} {a b : Turn} {l : List Turn} (h : s.schedule = a :: l) (n : a ≠ b) : ¬ nextTurnIs s b := by
  rintro ⟨_, e⟩; rw [h] at e; injection e with e; exact n e

theorem reset_inv : BlockInv State.reset :=
  ⟨by decide, by decide, by decide, by decide, by decide, nofun⟩

theorem idle_inv : BlockInv framing :=
  ⟨by decide, by decide, by decide, by decide, by decide, nofun⟩

theorem starting_inv : BlockInv starting :=
  ⟨by decide, by decide, by decide, by decide, by decide, nofun⟩

theorem failed_inv : BlockInv failed :=
  ⟨by decide, by decide, by decide, by decide, by decide, nofun⟩

theorem tinyEmitting_inv : BlockInv tinyEmitting :=
  ⟨by decide, by decide, by decide, by decide, by decide, fun _ => ⟨tinyResult, by decide +kernel, rfl⟩⟩

theorem tinyLast_inv : BlockInv tinyLast :=
  ⟨by decide, by decide, by decide, by decide, by decide, fun _ => ⟨tinyResult, by decide +kernel, rfl⟩⟩

theorem emitting_inv : BlockInv (emittingAt 699) :=
  ⟨by decide, by decide, by decide, by decide, by decide, fun _ => ⟨framingResult, by decide +kernel, rfl⟩⟩

theorem tinyLast_stream : StreamInv tinyLast := fun _ => ⟨[], by decide⟩

/-! ## Witnesses: encoding -/

theorem witness_DecodesTheWrittenWords : State.reset.state = .idle := rfl
theorem witness_DecodeOfEncodeIsTheCommand : (Instr.loadPattern 255 255).wellFormed = true := rfl
theorem witness_EachCommandHasOneWord : decode 0x00FFFF01 = .command (.loadPattern 255 255) := by decide
theorem witness_IllegalWordsAreExactlyThese :
    decode 0x01000000 = .illegal .reservedField ∧ decode 0x00000007 = .illegal .reservedOpcode ∧
    decode 0x00000100 = .illegal .operandNotZero := by decide
theorem witness_MatchAndMaskAgreeWithTheDecoder :
    ⟨"LOAD_PATTERN", 0x00000001#32, 0xFF0000FF#32⟩ ∈ opcodeRows ∧
    OpcodeRow.selects ⟨"LOAD_PATTERN", 0x00000001#32, 0xFF0000FF#32⟩ 0x00FFFF01 = true ∧
    decode 0x00FFFF01 = .command (.loadPattern 255 255) := by decide
theorem witness_HostLinesExpandToTheirAccesses : (HostLine.cmdLoadPattern 255 255).wellFormed = true := by decide
theorem witness_Wr64WritesBothHalves : 2 ^ 64 - 1 < 2 ^ 64 ∧ busy State.reset = false := by decide

/-! ## Witnesses: acceptance and commands -/

theorem witness_AcceptanceTable :
    accepted .start starting.state = false ∧ accepted .clear tinyEmitting.state = false ∧
    accepted (.loadPattern 0 1) failed.state = false ∧ decode 0x00000003 = .command .start ∧
    decode 0x00000007 = .illegal .reservedOpcode := by decide
/-- The four ways to reject, a write that sets REJECTED, and a read of each kind. -/
theorem witness_RejectingAccessesAreExactlyThese :
    misaligned 0x05 = true ∧ decode 0xFFFFFFFF = .illegal .reservedField ∧
    (decode 0x00000002 = .command .compute ∧ accepted .compute failed.state = false) ∧
    (isConfig .minDurationNsHi = true ∧ busy starting = true) ∧
    (nextOf (memWrite 0x05 0 State.reset)).map (fun t => t.rejected) = some true ∧ State.reset.rejected = false ∧
    misaligned 0xFF = true ∧ misaligned 0xFC = false := by decide
theorem witness_LoadPatternLoadsOrRaises :
    State.reset.state = .idle ∧ failed.state ≠ .idle ∧ starting.state ≠ .idle ∧ 2 ≤ (2 : Byte).toNat ∧
    2 ≤ (255 : Byte).toNat ∧ ((1 : Byte).toNat ≤ 1 ∧ (0 : Byte).toNat = 0) ∧
    ((0 : Byte).toNat ≤ 1 ∧ 5 ≤ (5 : Byte).toNat) ∧ ((1 : Byte).toNat ≤ 1 ∧ 5 ≤ (255 : Byte).toNat) := by decide
theorem witness_ComputeEntersComputing :
    framing.state = .idle ∧ quantizeState framing = .result framingResult ∧ State.reset.state = .idle ∧
    quantizeState State.reset = .error .cfgRateZero ∧ failed.state ≠ .idle := by decide +kernel
theorem witness_StartEntersComputing :
    tiny.state = .idle ∧ quantizeState tiny = .result tinyResult ∧ State.reset.state = .idle ∧
    quantizeState State.reset = .error .cfgRateZero ∧ tinyLast.state ≠ .idle := by decide +kernel
theorem witness_AbortEndsTheOperation :
    State.reset.state = .idle ∧ failed.state = .error ∧ (starting.state = .computing ∧ starting.startPending = true) ∧
    (computing.state = .computing ∧ computing.startPending = false) ∧ tinyLast.state = .emitting := by decide
theorem witness_ClearAcknowledgesTheError :
    failed.state = .error ∧ State.reset.state = .idle ∧ BlockInv State.reset ∧ starting.state = .computing ∧
    tinyLast.state = .emitting := ⟨rfl, rfl, reset_inv, rfl, rfl⟩
/-- A command that sets a flag, one that clears two, one that is rejected and the one that clears all four. -/
theorem witness_CommandsReadNoFlags :
    (exec .abort starting =
      .next { starting with startPending := false, state := .idle, aborted := true, sinkRecord := [.abort] }) ∧
    ((nextOf (exec .start { tiny with done := true, aborted := true, irqEn := 5 })).map
      (fun t => (t.done, t.aborted, t.rejected, t.irqEn)) = some (false, false, false, 5)) ∧
    ((nextOf (exec .compute { failed with done := true })).map (fun t => (t.done, t.rejected)) = some (true, true)) ∧
    ((nextOf (exec .reset { tiny with done := true, aborted := true, rejected := true, irqEn := 15 })).map
      (fun t => (t.done, t.aborted, t.rejected, t.irqEn)) = some (false, false, false, 0)) :=
  ⟨rfl, by decide, by decide, by decide⟩

/-! ## Witnesses: quantization and the Core step -/

theorem witness_RhuRoundsHalfUp : 0 < 1 ∧ 0 < 10 ^ 9 := by decide
/-- Each outcome, and the two sides of each bound. -/
theorem witness_QuantizeChecksInOrder :
    499 ≤ 499 ∧ quantize 0 0 0 0 0 0 = .error .cfgRateZero ∧ quantize 1 0 0 0 0 0 = .error .cfgCountZero ∧
    quantize 1 0 0 1 0 0 = .error .cfgPwGePri ∧ quantize 1 0 1 1 0 0 = .error .cfgNoFit ∧
    quantize 4294967295 0 1 1 18446744073709551615 0 = .error .ovfSegment ∧
    quantize 1000000000 0 1 1 0 (2 ^ 63) = .error .ovfTotal ∧
    quantize 1000000 499 500 1 0 0 = .result tinyResult := by decide
/-- One with the minimum duration below the cycle, one with it above (T3-26). -/
theorem witness_SuccessfulComputationLaws :
    quantize 1000000 499 500 1 0 0 = .result tinyResult ∧
    quantize 1000000 2000 5000 2 12000 24000 =
      .result { pulseSamples := 2, priSamples := 5, padSamples := 2, totalBurstSamples := 12, burstCount := 2,
                totalSamples := 24, totalBurstTime := 10000, effectiveCycle := 12000, padTime := 2000 } := by decide
theorem witness_ResultsFitTheirRegisters : quantizeState tiny = .result tinyResult := by decide +kernel
theorem witness_CoreStepWritesAllOrRaises :
    failed.state ≠ .computing ∧
    (let s : State := { State.reset with state := .computing, startPending := true }
     s.state = .computing ∧ quantizeState s = .error .cfgRateZero) ∧
    (starting.state = .computing ∧ quantizeState starting = .result framingResult) ∧
    ({ starting with schedule := [.core] } : State).schedule = .core :: [] := by decide +kernel
theorem witness_DueCoreStepIsTaken :
    starting.schedule = [] ∧ starting.state = .computing ∧ tinyLast.schedule = [] ∧ tinyLast.state ≠ .computing := by decide

/-! ## Witnesses: errors -/

theorem witness_RaiseErrorEntersError :
    BlockInv ({ tinyLast with schedule := [.sinkError] } : State) ∧
    step { tinyLast with schedule := [.sinkError] } =
      .next { tinyLast with
        errCause := .ioSink, state := .error, sinkRecord := [.byte 0x00 false, .abort], raceStep := 1 } ∧
    Cause.ioSink ≠ tinyLast.errCause ∧ Cause.ioSink ≠ .none :=
  ⟨⟨tinyLast_inv.cause, tinyLast_inv.pending, tinyLast_inv.computing, tinyLast_inv.startAtZero, tinyLast_inv.emitting,
    tinyLast_inv.valid⟩, rfl, by decide, by decide⟩
theorem witness_ErrorsPersistUntilAcknowledged :
    failed.state = .error ∧ step failed = .next failed ∧ ¬ nextIsCommand failed .clear ∧ ¬ nextIsCommand failed .reset ∧
    ¬ nextTurnIs failed .hardReset := ⟨rfl, rfl, no_command rfl _, no_command rfl _, no_turn rfl _⟩
theorem witness_SinkErrorEndsTheEmission :
    tinyLast.state = .emitting ∧ starting.state ≠ .emitting ∧
    ({ starting with schedule := [.sinkError] } : State).schedule = .sinkError :: [] := by decide

/-! ## Witnesses: emission -/

/-- The first byte and the final one. -/
theorem witness_EmitterStepDeliversOneByte :
    (BlockInv tinyEmitting ∧ tinyEmitting.state = .emitting) ∧ (BlockInv tinyLast ∧ tinyLast.state = .emitting) ∧
    (BlockInv (emittingAt 699) ∧ (emittingAt 699).state = .emitting) ∧ failed.state ≠ .emitting ∧
    ({ tinyLast with schedule := [.sinkAccept] } : State).schedule = .sinkAccept :: [] :=
  ⟨⟨tinyEmitting_inv, rfl⟩, ⟨tinyLast_inv, rfl⟩, ⟨emitting_inv, rfl⟩, by decide, rfl⟩
/-- No pad, and a burst that is one pad. -/
theorem witness_LoopFormIsTheClosedForm : (0 < 1 ∧ 1 ≤ 1 * 1 + 0) ∧ (0 < 1 ∧ 1 ≤ 0 * 1 + 1) ∧ (10 < 100 ∧ 1 ≤ 3 * 100 + 50) := by
  decide
theorem witness_StreamDependsOnConfigurationOnly :
    BlockInv tinyEmitting ∧ BlockInv tinyLast ∧ tinyEmitting.countsValid = true ∧ tinyLast.countsValid = true ∧
    sameConfig tinyEmitting tinyLast ∧ tinyEmitting.pos ≠ tinyLast.pos :=
  ⟨tinyEmitting_inv, tinyLast_inv, rfl, rfl, ⟨rfl, rfl, rfl, rfl, rfl, rfl, rfl⟩, by decide⟩
theorem witness_OnBytesOfACompleteStream :
    10 < 100 ∧ 1 ≤ 3 * 100 + 50 ∧ (0x7F : Byte) ≠ 0x00 ∧ ((0x00 : Byte) = 0x00 ∨ 10 = 0) ∧ ((0x7F : Byte) = 0x00 ∨ 0 = 0) := by
  decide
theorem witness_AcceptedEmissionCompletes :
    BlockInv ({ tinyLast with schedule := [.sinkAccept] } : State) ∧ tinyLast.state = .emitting ∧
    ({ tinyLast with schedule := [.sinkAccept] } : State).schedule =
      List.replicate (2 * tinyLast.counts.totalSamples.toNat - tinyLast.pos.toNat) .sinkAccept ++ [] :=
  ⟨⟨tinyLast_inv.cause, tinyLast_inv.pending, tinyLast_inv.computing, tinyLast_inv.startAtZero, tinyLast_inv.emitting,
    tinyLast_inv.valid⟩, rfl, by decide⟩
theorem witness_EndToEndStart :
    let s : State :=
      { tiny with hostProgram := [.write 0x04 0x00000003], schedule := [.host, .core, .sinkAccept, .sinkAccept] }
    BlockInv s ∧ s.state = .idle ∧ quantizeState s = .result tinyResult ∧
    s.hostProgram = .write 0x04 0x00000003 :: [] ∧
    s.schedule = .host :: .core :: (List.replicate (2 * tinyResult.totalSamples) .sinkAccept ++ []) :=
  ⟨⟨by decide, by decide, by decide, by decide, by decide, nofun⟩, rfl, by decide +kernel, rfl, rfl⟩
theorem witness_StalledSinkHoldsTheOffer :
    tinyLast.state = .emitting ∧ step tinyLast = .next tinyLast ∧ ¬ nextTurnIs tinyLast .sinkAccept ∧
    ¬ nextTurnIs tinyLast .sinkError ∧ ¬ nextTurnIs tinyLast .hardReset ∧ ¬ nextIsCommand tinyLast .abort ∧
    ¬ nextIsCommand tinyLast .reset ∧ tinyLast.schedule = [] :=
  ⟨rfl, rfl, no_turn rfl _, no_turn rfl _, no_turn rfl _, no_command rfl _, no_command rfl _, rfl⟩
/-- A START begins a stream; a byte goes on with it; its final byte ends it; a hardware reset. -/
theorem witness_EveryStreamEndsWithOneTerminator :
    (let s := hostNext (.write 0x04 3) tiny
     streaming s = false ∧ ¬ nextTurnIs s .hardReset ∧ nextIsCommand s .start ∧
      (nextOf (step s)).map streaming = some true) ∧
    (let s : State := { tinyEmitting with schedule := [.sinkAccept] }
     streaming s = true ∧ ¬ nextTurnIs s .hardReset ∧ (nextOf (step s)).map streaming = some true) ∧
    (let s : State := { tinyLast with schedule := [.sinkAccept] }
     streaming s = true ∧ ¬ nextTurnIs s .hardReset ∧ (nextOf (step s)).map streaming = some false) ∧
    nextTurnIs { tinyLast with schedule := [.hardReset] } .hardReset :=
  ⟨⟨by decide, other_turn rfl (by decide), ⟨3, ⟨⟨[], rfl⟩, [], rfl⟩, by decide⟩, by decide⟩,
    ⟨by decide, other_turn rfl (by decide), by decide⟩, ⟨by decide, other_turn rfl (by decide), by decide⟩, [], rfl⟩

/-! ## Witnesses: the register window -/

/-- 60_exceptions R250: the first code and the last one a step raises. -/
theorem witness_StatusAndErrCauseReadTheirFields :
    State.reset.errCause = Cause.none ∧ memReadValue 0x0C State.reset = 0 ∧
    ({ failed with errCause := .ioSink } : State).errCause = .ioSink ∧
    memReadValue 0x0C { failed with errCause := .ioSink } = 9 := by decide
theorem witness_EmitBytesReadLatch :
    (memReadState 0x80 (emittingAt (2 ^ 32 + 5))).emitHiLatch = 1 ∧
    (nextOf (step (hostNext (.read 0x80) (emittingAt (2 ^ 32 + 5))))).map (fun t => t.emitHiLatch) = some 1 ∧
    (emittingAt (2 ^ 32 + 5)).emitHiLatch = 0 := by decide
/-- The three kinds of reserved offset at their bounds, and two words that differ in reserved bits alone. -/
theorem witness_FixedReadsAndIgnoredWrites :
    (0x38 : Byte).toNat % 4 = 0 ∧ (0x3C : Byte).toNat % 4 = 0 ∧ ((0x88 : Byte).toNat % 4 = 0 ∧ 0x88 ≤ (0x88 : Byte).toNat) ∧
    ((0xFC : Byte).toNat % 4 = 0 ∧ 0x88 ≤ (0xFC : Byte).toNat) ∧
    (0x1FF : Word).extractLsb' 0 8 = (0xFF : Word).extractLsb' 0 8 ∧
    (0xFF : Word).extractLsb' 0 4 = (0x0F : Word).extractLsb' 0 4 := by decide
theorem witness_MisalignedAccessesReject : (0x05 : Byte).toNat % 4 ≠ 0 ∧ (0xFF : Byte).toNat % 4 ≠ 0 := by decide
theorem witness_ConfigurationWriteReadsBack :
    (isConfig .onLevel = true ∧ busy failed = false) ∧ (isConfig .minDurationNsHi = true ∧ busy tiny = false) ∧
    (Reg.id ≠ .onLevel ∧ Reg.id ≠ .status) ∧ busy framing = false ∧
    (nextOf (memWrite 0x1C 7 framing)).map (fun t => (t.pwNs, t.priNs)) = some (7, 100000) := by decide
theorem witness_ResultReadsOldOrPending :
    (regOffset .pulseSamples ≤ regOffset .pulseSamples ∧ regOffset .pulseSamples ≤ regOffset .padTimeNsHi) ∧
    (regOffset .pulseSamples ≤ regOffset .padTimeNsHi ∧ regOffset .padTimeNsHi ≤ regOffset .padTimeNsHi) ∧
    tinyLast.state ≠ .computing ∧
    (let s : State := { framing with counts := { storeCounts framingResult with padSamples := 0x0000000500000006 } }
     (memReadValue 0x40 s, memReadValue 0x44 s, memReadValue 0x48 s, memReadValue 0x4C s) = (10, 100, 6, 5)) := by decide

/-! ## Witnesses: the whole machine -/

theorem witness_StepRunsTheDecodedCommand :
    (let s := hostNext (.write 0x04 0x00030101) State.reset
     s.schedule = .host :: [] ∧ s.hostProgram = .write 0x04 0x00030101 :: []) ∧
    decode 0x00030101 = .command (.loadPattern 1 3) ∧ (Instr.loadPattern 1 3).wellFormed = true ∧
    decodeTableWord 32 0x00030101 = some (.loadPattern 1 3) ∧
    (let s := hostNext (.write 0x1C 7) framing
     s.schedule = .host :: [] ∧ s.hostProgram = .write 0x1C 7 :: [] ∧ (nextOf (step s)).map (fun t => t.pwNs) = some 7) ∧
    (let s := hostNext (.read 0x20) framing
     s.schedule = .host :: [] ∧ s.hostProgram = .read 0x20 :: [] ∧
      (nextOf (step s)).map (fun t => t.hostReads) = some [(0x20, 100000)]) := by decide
/-- A round that ends the loop, and one that goes round again, for each loop. -/
theorem witness_PollingRoundsReadStatus :
    (hostNext .waitNotBusy failed).schedule = .host :: [] ∧ (hostNext .waitNotBusy failed).hostProgram = .waitNotBusy :: [] ∧
    (hostNext .waitNotBusy tinyLast).hostProgram = .waitNotBusy :: [] ∧
    (hostNext .waitCompute tinyLast).hostProgram = .waitCompute :: [] ∧
    (hostNext .waitCompute starting).hostProgram = .waitCompute :: [] := by decide
theorem witness_HardwareResetLeavesNoTerminator :
    ({ tinyLast with schedule := [.hardReset] } : State).schedule = .hardReset :: [] := rfl
theorem witness_EveryStepKeepsTheBlockInvariant : BlockInv tinyLast ∧ step tinyLast = .next tinyLast := ⟨tinyLast_inv, rfl⟩
theorem witness_EveryStepKeepsTheStreamInvariant :
    BlockInv tinyLast ∧ StreamInv tinyLast ∧ step tinyLast = .next tinyLast := ⟨tinyLast_inv, tinyLast_stream, rfl⟩
theorem witness_NoStepStops : BlockInv ({ tinyLast with schedule := [.sinkAccept] } : State) :=
  ⟨tinyLast_inv.cause, tinyLast_inv.pending, tinyLast_inv.computing, tinyLast_inv.startAtZero, tinyLast_inv.emitting,
    tinyLast_inv.valid⟩
theorem witness_OnlyListedTransitions :
    step { tinyLast with schedule := [.sinkError] } =
      .next { tinyLast with
        errCause := .ioSink, state := .error, sinkRecord := [.byte 0x00 false, .abort], raceStep := 1 } ∧
    RunState.error ≠ ({ tinyLast with schedule := [.sinkError] } : State).state := ⟨rfl, by decide⟩
theorem witness_ConfigurationIsLockedWhileBusy :
    (isConfig .onLevel = true ∧ busy tinyLast = true) ∧ (isConfig .onLevel = true ∧ tiny.state = .idle) ∧
    failed.state = .error ∧ step tinyLast = .next tinyLast ∧ ¬ nextIsCommand tinyLast .reset ∧
    ¬ nextTurnIs tinyLast .hardReset := ⟨by decide, by decide, rfl, rfl, no_command rfl _, no_turn rfl _⟩
theorem witness_CountsAreWrittenTogetherOrNotAtAll :
    (nextOf (step computing)).map (fun t => decide (t.counts ≠ computing.counts)) = some true ∧
    (nextOf (step { tinyLast with schedule := [.hardReset] })).map (fun t => decide (t.counts ≠ tinyLast.counts)) = some true ∧
    regOffset .pulseSamples ≤ regOffset .padTimeNsHi := by decide +kernel
theorem witness_CountsValidBookkeeping :
    ((nextOf (step computing)).map (fun t => t.countsValid) = some true ∧ computing.countsValid = false) ∧
    (nextOf (step (hostNext (.write 0x1C 0) { tiny with countsValid := true }))).map (fun t => t.countsValid) = some false ∧
    ((nextOf (step (hostNext (.write 0x04 0x00040101) { tiny with countsValid := true }))).map (fun t => t.countsValid)
        = some false ∧
      decode 0x00040101 = .command (.loadPattern 1 4) ∧ domainOf 1 ≠ none ∧ indexOf 4 ≠ none) ∧
    (nextOf (step (hostNext (.write 0x04 2) { tiny with countsValid := true }))).map (fun t => t.countsValid) = some false := by
  decide
/-- Each flag cleared by a STATUS write, and DONE and ABORTED by START. -/
theorem witness_StickyFlagsStayUntilCleared :
    (let s := hostNext (.write 0x08 0x70) { tiny with rejected := true, done := true, aborted := true }
     ¬ nextIsCommand s .reset ∧ ¬ nextTurnIs s .hardReset ∧
      (nextOf (step s)).map (fun t => (t.rejected, t.done, t.aborted)) = some (false, false, false)) ∧
    (let s := hostNext (.write 0x04 3) { tiny with rejected := true, done := true, aborted := true }
     ¬ nextTurnIs s .hardReset ∧
      (nextOf (step s)).map (fun t => (t.rejected, t.done, t.aborted)) = some (true, false, false)) :=
  ⟨⟨by rintro ⟨_, ⟨_, _, e⟩, _⟩; injection e with e; injection e with e; revert e; decide, other_turn rfl (by decide), by decide⟩,
    other_turn rfl (by decide), by decide⟩
theorem witness_SameCycleOrder :
    (let s : State :=
      { tinyLast with schedule := sameCycle false true false true false, hostProgram := [.write 0x04 0x00000004] }
     s.state = .emitting ∧ s.schedule = sameCycle false true false true false ++ [] ∧
      s.hostProgram = .write 0x04 0x00000004 :: []) ∧
    (let s : State := { tinyLast with schedule := sameCycle false false true true false }
     s.state = .emitting ∧ s.schedule = sameCycle false false true true false ++ []) ∧
    (let s : State :=
      { tinyLast with schedule := sameCycle false true false true false, hostProgram := [.write 0x08 0x00000010] }
     BlockInv s ∧ s.pos.toNat + 1 = 2 * s.counts.totalSamples.toNat ∧ (0x00000010 : Word).getLsbD 4 = true) :=
  ⟨by decide, by decide,
    ⟨tinyLast_inv.cause, tinyLast_inv.pending, tinyLast_inv.computing, tinyLast_inv.startAtZero, tinyLast_inv.emitting,
      tinyLast_inv.valid⟩, by decide, by decide⟩
theorem witness_EndedRunsKeepTheirObservation :
    runEnded failed ∧ step failed = .next failed ∧ ¬ nextTurnIs failed .hardReset :=
  ⟨⟨rfl, .inr rfl⟩, rfl, no_turn rfl _⟩
/-- START after an emission, a hardware reset and an acceptance. -/
theorem witness_EmitBytesCountsAcceptedBytes :
    (nextOf (step (hostNext (.write 0x04 3) { tiny with pos := 2 }))).map (fun t => t.pos) = some 0 ∧
    (nextOf (step { tinyLast with schedule := [.hardReset] })).map (fun t => t.pos) = some 0 ∧
    (nextOf (step { tinyLast with schedule := [.sinkAccept] })).map (fun t => t.pos) = some 2 ∧ tinyLast.pos = 1 := by
  decide

end Sys2Proof.Tests
end

section
/-! Proofs about quantization (00_scope, 41_synthesis): the rounding it uses. -/

namespace Sys2Proof.Machine

/-- The one quotient that `rhu` takes by `div` is, over the rationals, the ratio moved up by a half. -/
theorem rhu_quotient_eq_div_add_half (a : Nat) {b : Nat} (hb : 0 < b) :
    (((2 * a + b : Nat) : ℚ) / ((2 * b : Nat) : ℚ)) = (a : ℚ) / (b : ℚ) + 1 / 2 := by
  have hb' : (b : ℚ) ≠ 0 := Nat.cast_ne_zero.mpr hb.ne'
  push_cast
  field_simp

/-- 00_scope R10, read over the rationals: `div` is the floor of the exact quotient. -/
theorem rhu_eq_floor_div_add_half (a : Nat) {b : Nat} (hb : 0 < b) :
    ((rhu a b : Nat) : Int) = Int.floor ((a : ℚ) / (b : ℚ) + 1 / 2) :=
  calc ((rhu a b : Nat) : Int)
      = ((2 * a + b : Nat) : Int) / ((2 * b : Nat) : Int) := Int.natCast_div _ _
    _ = Int.floor (((2 * a + b : Nat) : ℚ) / ((2 * b : Nat) : ℚ)) := (Rat.floor_natCast_div_natCast _ _).symm
    _ = Int.floor ((a : ℚ) / (b : ℚ) + 1 / 2) := by rw [rhu_quotient_eq_div_add_half a hb]

/-- Settles O18: the formula is the definition of `rhu`, and the floor form is `rhu_eq_floor_div_add_half`. -/
theorem rhuRoundsHalfUp : Obligations.RhuRoundsHalfUp :=
  fun a _ hb => ⟨rfl, rhu_eq_floor_div_add_half a hb⟩

end Sys2Proof.Machine
end

section
/-! What the updates leave alone: the frame of the operations that have a case lemma but no field lemmas, and the fields of
the block across a change of the environment. -/

namespace Sys2Proof.Machine

theorem sameConfig.refl (s : State) : sameConfig s s := ⟨rfl, rfl, rfl, rfl, rfl, rfl, rfl⟩

theorem sameConfig.trans {s t u : State} (h : sameConfig s t) (k : sameConfig t u) : sameConfig s u := by
  obtain ⟨h1, h2, h3, h4, h5, h6, h7⟩ := h
  obtain ⟨k1, k2, k3, k4, k5, k6, k7⟩ := k
  exact ⟨k1.trans h1, k2.trans h2, k3.trans h3, k4.trans h4, k5.trans h5, k6.trans h6, k7.trans h7⟩

theorem sameBlock_sameConfig {s u : State} (h : sameBlock s u) : sameConfig s u := by
  obtain ⟨_, _, _, rfl⟩ := h; exact sameConfig.refl s

theorem sameBlock_busy {s u : State} (h : sameBlock s u) : busy u = busy s := by
  simp only [busy, sameBlock_state h]

/-- A computation reads the configuration alone (41_synthesis R150). -/
theorem quantizeState_of_sameConfig {s t : State} (h : sameConfig s t) : quantizeState t = quantizeState s := by
  obtain ⟨-, hfs, hpw, hpri, hn, hbp, hmd⟩ := h
  simp only [quantizeState, hfs, hpw, hpri, hn, hbp, hmd]

/-! EmitAbort() and raise Error(code). -/

theorem endOpenStream_frame (s : State) : endOpenStream s = { s with sinkRecord := (endOpenStream s).sinkRecord } := by
  unfold endOpenStream; split <;> rfl

theorem raiseError_frame (c : Cause) (s : State) :
    raiseError c s =
      { s with startPending := false, errCause := c, state := .error, sinkRecord := (endOpenStream s).sinkRecord } := by
  unfold raiseError; rw [endOpenStream_frame]

theorem raiseError_sameConfig (c : Cause) (s : State) : sameConfig s (raiseError c s) := by
  rw [raiseError_frame]; exact sameConfig.refl s

/-! The read of an access: REJECTED and the latch are all it can touch. -/

theorem memReadState_frame (addr : Byte) (s : State) :
    memReadState addr s =
      { s with rejected := (memReadState addr s).rejected, emitHiLatch := (memReadState addr s).emitHiLatch } := by
  rcases memReadState_cases addr s with ⟨-, h⟩ | ⟨-, -, h⟩ | ⟨-, -, h⟩ <;> rw [h]
  rfl

@[simp] theorem memReadState_countsValid (addr : Byte) (s : State) :
    (memReadState addr s).countsValid = s.countsValid := by rw [memReadState_frame]
@[simp] theorem memReadState_done (addr : Byte) (s : State) : (memReadState addr s).done = s.done := by
  rw [memReadState_frame]
@[simp] theorem memReadState_aborted (addr : Byte) (s : State) : (memReadState addr s).aborted = s.aborted := by
  rw [memReadState_frame]
@[simp] theorem memReadState_counts (addr : Byte) (s : State) : (memReadState addr s).counts = s.counts := by
  rw [memReadState_frame]
@[simp] theorem memReadState_pos (addr : Byte) (s : State) : (memReadState addr s).pos = s.pos := by
  rw [memReadState_frame]

/-- A read sets REJECTED or leaves it; it never clears it (20_memory R74). -/
theorem memReadState_keeps_rejected (addr : Byte) {s : State} (h : s.rejected = true) :
    (memReadState addr s).rejected = true := by
  rcases memReadState_cases addr s with ⟨-, hr⟩ | ⟨-, -, hr⟩ | ⟨-, -, hr⟩ <;> simp [hr, h]

/-- Only a read of EMIT_BYTES_LO loads the latch (10_state R49). -/
theorem memReadState_latch_of_ne {addr : Byte} (h : addr ≠ regOffset .emitBytesLo) (s : State) :
    (memReadState addr s).emitHiLatch = s.emitHiLatch := by
  rcases memReadState_cases addr s with ⟨-, hr⟩ | ⟨-, ha, -⟩ | ⟨-, -, hr⟩
  · simp [hr]
  · exact absurd (regAt_some ha) h
  · rw [hr]

theorem memReadState_sameConfig (addr : Byte) (s : State) : sameConfig s (memReadState addr s) := by
  rw [memReadState_frame]; exact sameConfig.refl s

/-! An accepted write of a configuration register: the configuration and, for a timing register, COUNTS_VALID. -/

theorem setConfig_frame (r : Reg) (v : Word) (s : State) :
    setConfig r v s = { s with
      onLevel := (setConfig r v s).onLevel
      sampleRate := (setConfig r v s).sampleRate
      pwNs := (setConfig r v s).pwNs
      priNs := (setConfig r v s).priNs
      pulseCount := (setConfig r v s).pulseCount
      burstPeriodNs := (setConfig r v s).burstPeriodNs
      minDurationNs := (setConfig r v s).minDurationNs } := by
  cases r <;> rfl

@[simp] theorem setConfig_state (r : Reg) (v : Word) (s : State) : (setConfig r v s).state = s.state := by
  rw [setConfig_frame]
@[simp] theorem setConfig_startPending (r : Reg) (v : Word) (s : State) :
    (setConfig r v s).startPending = s.startPending := by rw [setConfig_frame]
@[simp] theorem setConfig_countsValid (r : Reg) (v : Word) (s : State) :
    (setConfig r v s).countsValid = s.countsValid := by rw [setConfig_frame]
@[simp] theorem setConfig_done (r : Reg) (v : Word) (s : State) : (setConfig r v s).done = s.done := by
  rw [setConfig_frame]
@[simp] theorem setConfig_aborted (r : Reg) (v : Word) (s : State) : (setConfig r v s).aborted = s.aborted := by
  rw [setConfig_frame]
@[simp] theorem setConfig_rejected (r : Reg) (v : Word) (s : State) : (setConfig r v s).rejected = s.rejected := by
  rw [setConfig_frame]
@[simp] theorem setConfig_errCause (r : Reg) (v : Word) (s : State) : (setConfig r v s).errCause = s.errCause := by
  rw [setConfig_frame]
@[simp] theorem setConfig_irqEn (r : Reg) (v : Word) (s : State) : (setConfig r v s).irqEn = s.irqEn := by
  rw [setConfig_frame]
@[simp] theorem setConfig_counts (r : Reg) (v : Word) (s : State) : (setConfig r v s).counts = s.counts := by
  rw [setConfig_frame]
@[simp] theorem setConfig_pos (r : Reg) (v : Word) (s : State) : (setConfig r v s).pos = s.pos := by
  rw [setConfig_frame]
@[simp] theorem setConfig_emitHiLatch (r : Reg) (v : Word) (s : State) :
    (setConfig r v s).emitHiLatch = s.emitHiLatch := by rw [setConfig_frame]

theorem noteTimingWrite_frame (r : Reg) (s : State) :
    noteTimingWrite r s = { s with countsValid := if isTiming r then false else s.countsValid } := by
  unfold noteTimingWrite; split <;> rfl

@[simp] theorem noteTimingWrite_state (r : Reg) (s : State) : (noteTimingWrite r s).state = s.state := by
  rw [noteTimingWrite_frame]
@[simp] theorem noteTimingWrite_startPending (r : Reg) (s : State) :
    (noteTimingWrite r s).startPending = s.startPending := by rw [noteTimingWrite_frame]
@[simp] theorem noteTimingWrite_countsValid (r : Reg) (s : State) :
    (noteTimingWrite r s).countsValid = if isTiming r then false else s.countsValid := by rw [noteTimingWrite_frame]
@[simp] theorem noteTimingWrite_done (r : Reg) (s : State) : (noteTimingWrite r s).done = s.done := by
  rw [noteTimingWrite_frame]
@[simp] theorem noteTimingWrite_aborted (r : Reg) (s : State) : (noteTimingWrite r s).aborted = s.aborted := by
  rw [noteTimingWrite_frame]
@[simp] theorem noteTimingWrite_rejected (r : Reg) (s : State) : (noteTimingWrite r s).rejected = s.rejected := by
  rw [noteTimingWrite_frame]
@[simp] theorem noteTimingWrite_errCause (r : Reg) (s : State) : (noteTimingWrite r s).errCause = s.errCause := by
  rw [noteTimingWrite_frame]
@[simp] theorem noteTimingWrite_counts (r : Reg) (s : State) : (noteTimingWrite r s).counts = s.counts := by
  rw [noteTimingWrite_frame]
@[simp] theorem noteTimingWrite_pos (r : Reg) (s : State) : (noteTimingWrite r s).pos = s.pos := by
  rw [noteTimingWrite_frame]
@[simp] theorem noteTimingWrite_emitHiLatch (r : Reg) (s : State) :
    (noteTimingWrite r s).emitHiLatch = s.emitHiLatch := by rw [noteTimingWrite_frame]

/-- ON_LEVEL is the one configuration register whose write keeps COUNTS_VALID (10_state R29, R37). -/
theorem isTiming_of_isConfig {r : Reg} (h : isConfig r = true) : isTiming r = !decide (r = .onLevel) := by
  revert h; cases r <;> decide

/-! The Core step: the nine results, STATE and its flags, the cause of a failure. -/

theorem coreStep_frame (s : State) :
    coreStep s = { s with
      state := (coreStep s).state
      startPending := (coreStep s).startPending
      countsValid := (coreStep s).countsValid
      errCause := (coreStep s).errCause
      counts := (coreStep s).counts
      sinkRecord := (coreStep s).sinkRecord } := by
  rcases coreStep_cases s with ⟨-, h⟩ | ⟨-, c, -, h⟩ | ⟨-, -, r, -, h⟩ | ⟨-, -, r, -, h⟩ <;> rw [h]
  rw [raiseError_frame]

@[simp] theorem coreStep_done (s : State) : (coreStep s).done = s.done := by rw [coreStep_frame]
@[simp] theorem coreStep_aborted (s : State) : (coreStep s).aborted = s.aborted := by rw [coreStep_frame]
@[simp] theorem coreStep_rejected (s : State) : (coreStep s).rejected = s.rejected := by rw [coreStep_frame]
@[simp] theorem coreStep_pos (s : State) : (coreStep s).pos = s.pos := by rw [coreStep_frame]
@[simp] theorem coreStep_emitHiLatch (s : State) : (coreStep s).emitHiLatch = s.emitHiLatch := by rw [coreStep_frame]

theorem coreStep_sameConfig (s : State) : sameConfig s (coreStep s) := by
  rw [coreStep_frame]; exact sameConfig.refl s

/-- The Core step keeps the results and COUNTS_VALID unless its computation succeeds (41_synthesis R160). -/
theorem coreStep_results_cases (s : State) :
    ((coreStep s).counts = s.counts ∧ (coreStep s).countsValid = s.countsValid) ∨
    (s.state = .computing ∧ ∃ r, quantizeState s = .result r ∧ (coreStep s).counts = storeCounts r ∧
      (coreStep s).countsValid = true) := by
  rcases coreStep_cases s with ⟨-, h⟩ | ⟨-, c, -, h⟩ | ⟨hs, -, r, hr, h⟩ | ⟨hs, -, r, hr, h⟩
  · exact .inl (by simp [h])
  · exact .inl (by simp [h])
  · exact .inr ⟨hs, r, hr, by simp [h]⟩
  · exact .inr ⟨hs, r, hr, by simp [h]⟩

/-! The Sink error step. -/

theorem sinkErrorStep_frame (s : State) :
    sinkErrorStep s = { s with
      state := (sinkErrorStep s).state
      startPending := (sinkErrorStep s).startPending
      errCause := (sinkErrorStep s).errCause
      sinkRecord := (sinkErrorStep s).sinkRecord } := by
  rcases sinkErrorStep_cases s with ⟨-, h⟩ | ⟨-, h⟩ <;> rw [h]
  rw [raiseError_frame]

@[simp] theorem sinkErrorStep_countsValid (s : State) : (sinkErrorStep s).countsValid = s.countsValid := by
  rw [sinkErrorStep_frame]
@[simp] theorem sinkErrorStep_done (s : State) : (sinkErrorStep s).done = s.done := by rw [sinkErrorStep_frame]
@[simp] theorem sinkErrorStep_aborted (s : State) : (sinkErrorStep s).aborted = s.aborted := by rw [sinkErrorStep_frame]
@[simp] theorem sinkErrorStep_rejected (s : State) : (sinkErrorStep s).rejected = s.rejected := by
  rw [sinkErrorStep_frame]
@[simp] theorem sinkErrorStep_counts (s : State) : (sinkErrorStep s).counts = s.counts := by rw [sinkErrorStep_frame]
@[simp] theorem sinkErrorStep_pos (s : State) : (sinkErrorStep s).pos = s.pos := by rw [sinkErrorStep_frame]
@[simp] theorem sinkErrorStep_emitHiLatch (s : State) : (sinkErrorStep s).emitHiLatch = s.emitHiLatch := by
  rw [sinkErrorStep_frame]

theorem sinkErrorStep_sameConfig (s : State) : sameConfig s (sinkErrorStep s) := by
  rw [sinkErrorStep_frame]; exact sameConfig.refl s

/-! The Emitter step: STATE, DONE, EMIT_BYTES and the sink's record. -/

theorem emitterStep_frame {s t : State} (h : emitterStep s = .next t) :
    t = { s with state := t.state, done := t.done, pos := t.pos, sinkRecord := t.sinkRecord } := by
  rcases emitterStep_cases h with ⟨-, rfl⟩ | ⟨-, -, -, rfl⟩ | ⟨-, -, -, rfl⟩ <;> rfl

theorem emitterStep_sameConfig {s t : State} (h : emitterStep s = .next t) : sameConfig s t := by
  rw [emitterStep_frame h]; exact sameConfig.refl s

/-- DONE is set by the final byte; no acceptance clears it (42_emission R194). -/
theorem emitterStep_keeps_done {s t : State} (h : emitterStep s = .next t) (hd : s.done = true) : t.done = true := by
  rcases emitterStep_cases h with ⟨-, rfl⟩ | ⟨-, -, -, rfl⟩ | ⟨-, -, -, rfl⟩ <;> simp [hd]

/-- EMIT_BYTES advances by one exactly when a byte is accepted (42_emission R192). -/
theorem emitterStep_pos_cases {s t : State} (h : emitterStep s = .next t) :
    t.pos = s.pos ∨ (s.state = .emitting ∧ t.pos = s.pos + 1) := by
  rcases emitterStep_cases h with ⟨-, rfl⟩ | ⟨he, -, -, rfl⟩ | ⟨he, -, -, rfl⟩
  · exact .inl rfl
  · exact .inr ⟨he, by simp⟩
  · exact .inr ⟨he, by simp⟩

/-! The acceptance table, and what each command writes. -/

@[simp] theorem accepted_loadPattern (d i : Byte) (p : RunState) :
    accepted (.loadPattern d i) p = true ↔ p = .idle := beq_iff_eq
@[simp] theorem accepted_compute (p : RunState) : accepted .compute p = true ↔ p = .idle := beq_iff_eq
@[simp] theorem accepted_start (p : RunState) : accepted .start p = true ↔ p = .idle := beq_iff_eq
@[simp] theorem accepted_clear (p : RunState) : accepted .clear p = true ↔ p = .idle ∨ p = .error := by
  simp [accepted]

theorem loadPattern_frame (d i : Byte) (s : State) :
    loadPattern d i s = { s with
      state := (loadPattern d i s).state
      startPending := (loadPattern d i s).startPending
      countsValid := (loadPattern d i s).countsValid
      errCause := (loadPattern d i s).errCause
      pwNs := (loadPattern d i s).pwNs
      priNs := (loadPattern d i s).priNs
      pulseCount := (loadPattern d i s).pulseCount
      sinkRecord := (loadPattern d i s).sinkRecord } := by
  rcases loadPattern_cases d i s with ⟨-, h⟩ | ⟨_, -, -, h⟩ | ⟨_, _, -, -, h⟩ <;> rw [h] <;> rw [raiseError_frame]

theorem abortEffect_frame (s : State) :
    abortEffect s = { s with
      state := (abortEffect s).state
      startPending := (abortEffect s).startPending
      aborted := (abortEffect s).aborted
      sinkRecord := (abortEffect s).sinkRecord } := by
  rcases abortEffect_cases s with ⟨-, h⟩ | ⟨-, h⟩ | ⟨-, h⟩ <;> rw [h] <;> rw [endOpenStream_frame]

/-- ABORT sets ABORTED or leaves it (43_control R226). -/
theorem abortEffect_keeps_aborted {s : State} (h : s.aborted = true) : (abortEffect s).aborted = true := by
  rcases abortEffect_cases s with ⟨-, he⟩ | ⟨-, he⟩ | ⟨-, he⟩ <;> simp [he, h]

/-- What no command but RESET writes: IRQ_EN, REJECTED, the latch, the result registers and the configuration registers
that are no part of a profile. -/
theorem effectOf_frame {i : Instr} (hi : i ≠ .reset) (s : State) :
    effectOf i s = { s with
      state := (effectOf i s).state
      startPending := (effectOf i s).startPending
      countsValid := (effectOf i s).countsValid
      done := (effectOf i s).done
      aborted := (effectOf i s).aborted
      errCause := (effectOf i s).errCause
      pwNs := (effectOf i s).pwNs
      priNs := (effectOf i s).priNs
      pulseCount := (effectOf i s).pulseCount
      pos := (effectOf i s).pos
      sinkRecord := (effectOf i s).sinkRecord } := by
  cases i with
  | loadPattern d i => simp only [effectOf]; rw [loadPattern_frame]
  | abort => simp only [effectOf]; rw [abortEffect_frame]
  | reset => exact absurd rfl hi
  | nop | compute | start | clear => rfl

theorem effectOf_counts {i : Instr} (hi : i ≠ .reset) (s : State) : (effectOf i s).counts = s.counts := by
  rw [effectOf_frame hi]

theorem effectOf_emitHiLatch {i : Instr} (hi : i ≠ .reset) (s : State) :
    (effectOf i s).emitHiLatch = s.emitHiLatch := by
  rw [effectOf_frame hi]

theorem effectOf_rejected {i : Instr} (hi : i ≠ .reset) (s : State) : (effectOf i s).rejected = s.rejected := by
  rw [effectOf_frame hi]

/-- Only START and RESET write EMIT_BYTES (10_state R48). -/
theorem effectOf_pos {i : Instr} (hs : i ≠ .start) (hi : i ≠ .reset) (s : State) : (effectOf i s).pos = s.pos := by
  cases i with
  | loadPattern d i => simp only [effectOf]; rw [loadPattern_frame]
  | abort => simp only [effectOf]; rw [abortEffect_frame]
  | start => exact absurd rfl hs
  | reset => exact absurd rfl hi
  | nop | compute | clear => rfl

/-- Only START and RESET clear DONE (41_synthesis R176). -/
theorem effectOf_done {i : Instr} (hs : i ≠ .start) (hi : i ≠ .reset) (s : State) : (effectOf i s).done = s.done := by
  cases i with
  | loadPattern d i => simp only [effectOf]; rw [loadPattern_frame]
  | abort => simp only [effectOf]; rw [abortEffect_frame]
  | start => exact absurd rfl hs
  | reset => exact absurd rfl hi
  | nop | compute | clear => rfl

/-- Only START and RESET clear ABORTED (41_synthesis R176). -/
theorem effectOf_keeps_aborted {i : Instr} (hs : i ≠ .start) (hi : i ≠ .reset) {s : State} (ha : s.aborted = true) :
    (effectOf i s).aborted = true := by
  cases i with
  | loadPattern d i => simp only [effectOf]; rw [loadPattern_frame]; exact ha
  | abort => exact abortEffect_keeps_aborted ha
  | start => exact absurd rfl hs
  | reset => exact absurd rfl hi
  | nop | compute | clear => exact ha

/-- While busy the accepted commands are NOP, ABORT and RESET; the first two keep the configuration (10_state R36,
43_control R220). -/
theorem effectOf_sameConfig_of_busy {i : Instr} (hi : i ≠ .reset) {s : State} (ha : accepted i s.state = true)
    (hb : busy s = true) : sameConfig s (effectOf i s) := by
  have hidle : s.state ≠ .idle := by
    rcases (busy_iff s).mp hb with h | h <;> simp [h]
  cases i with
  | loadPattern d i => exact absurd ((accepted_loadPattern d i s.state).mp ha) hidle
  | abort => simp only [effectOf]; rw [abortEffect_frame]; exact sameConfig.refl s
  | reset => exact absurd rfl hi
  | nop | compute | start | clear => exact sameConfig.refl s

end Sys2Proof.Machine
end

section
/-! The invariant of the block: what it takes in each STATE, and that every update of a step keeps it. -/

namespace Sys2Proof.Machine

/-! ## What the invariant asks, by STATE -/

/-- The invariant speaks of no sticky flag, of neither IRQ_EN nor the latch, and not of the environment. -/
theorem BlockInv.of_unread {s : State} (h : BlockInv s) {d a r : Bool} {e : BitVec 4} {latch : Word}
    {prog : List HostOp} {turns : List Turn} {reads : List (Byte × Word)} {record : List StreamEvent} {k : Nat} :
    BlockInv { s with
      done := d, aborted := a, rejected := r, irqEn := e, emitHiLatch := latch, hostProgram := prog
      schedule := turns, hostReads := reads, sinkRecord := record, raceStep := k } :=
  ⟨h.cause, h.pending, h.computing, h.startAtZero, h.emitting, h.valid⟩

/-- COUNTS_VALID with the results of the current configuration, the part of the invariant about the result registers. -/
def countsMatch (s : State) : Prop :=
  s.countsValid = true → ∃ r, quantizeState s = .result r ∧ s.counts = storeCounts r

theorem countsMatch_of_invalid {s : State} (h : s.countsValid = false) : countsMatch s :=
  fun hv => absurd hv (by simp [h])

/-- The results stay those of the configuration while neither changes. -/
theorem countsMatch_of_same {s t : State} (h : countsMatch s) (hv : t.countsValid = s.countsValid)
    (hc : t.counts = s.counts) (hcfg : sameConfig s t) : countsMatch t := by
  intro ht
  rw [quantizeState_of_sameConfig hcfg, hc]
  exact h (hv ▸ ht)

theorem BlockInv.of_idle {s : State} (hs : s.state = .idle) (hc : s.errCause = .none) (hp : s.startPending = false)
    (hm : countsMatch s) : BlockInv s where
  cause := by simp [hs, hc]
  pending := by simp [hp]
  computing := by simp [hs]
  startAtZero := by simp [hp]
  emitting := by simp [hs]
  valid := hm

theorem BlockInv.of_error {s : State} (hs : s.state = .error) (hc : s.errCause ≠ .none) (hp : s.startPending = false)
    (hm : countsMatch s) : BlockInv s where
  cause := by simp [hs, hc]
  pending := by simp [hp]
  computing := by simp [hs]
  startAtZero := by simp [hp]
  emitting := by simp [hs]
  valid := hm

theorem BlockInv.of_computing {s : State} (hs : s.state = .computing) (hc : s.errCause = .none)
    (hv : s.countsValid = false) (hz : s.startPending = true → s.pos = 0) : BlockInv s where
  cause := by simp [hs, hc]
  pending _ := hs
  computing _ := hv
  startAtZero := hz
  emitting := by simp [hs]
  valid := countsMatch_of_invalid hv

theorem BlockInv.of_emitting {s : State} (hs : s.state = .emitting) (hc : s.errCause = .none)
    (hp : s.startPending = false) (hv : s.countsValid = true)
    (hpos : s.pos.toNat < 2 * s.counts.totalSamples.toNat) (hm : countsMatch s) : BlockInv s where
  cause := by simp [hs, hc]
  pending := by simp [hp]
  computing := by simp [hs]
  startAtZero := by simp [hp]
  emitting _ := ⟨hv, hpos⟩
  valid := hm

theorem BlockInv.errCause_none {s : State} (h : BlockInv s) (hs : s.state ≠ .error) : s.errCause = .none := by
  by_contra hc
  exact hs (h.cause.mp hc)

theorem BlockInv.startPending_false {s : State} (h : BlockInv s) (hs : s.state ≠ .computing) :
    s.startPending = false :=
  Bool.eq_false_iff.mpr fun hp => hs (h.pending hp)

/-- Settles O48: IDLE with no error and no valid counts meets the one invariant, and the other says nothing of IDLE. -/
theorem resetMeetsTheBlockInvariant : Obligations.ResetMeetsTheBlockInvariant :=
  ⟨.of_idle rfl rfl rfl (countsMatch_of_invalid rfl), fun h => absurd h (by decide)⟩

/-! ## The updates -/

theorem BlockInv.of_sameBlock {s u : State} (h : BlockInv s) (hu : sameBlock s u) : BlockInv u := by
  obtain ⟨_, _, _, rfl⟩ := hu; exact h.of_unread

theorem BlockInv.after_resetBlock (s : State) : BlockInv (resetBlock s) :=
  resetMeetsTheBlockInvariant.1.of_unread

theorem BlockInv.after_raiseError {s : State} (h : BlockInv s) {c : Cause} (hc : c ≠ .none) : BlockInv (raiseError c s) :=
  .of_error (by simp) (by simpa using hc) (by simp)
    (countsMatch_of_same h.valid (by simp) (by simp) (raiseError_sameConfig c s))

/-- An accepted LOAD_PATTERN raises an error or loads a profile, which leaves no valid counts. -/
theorem BlockInv.after_loadPattern {s : State} (h : BlockInv s) (hs : s.state = .idle) (d i : Byte) :
    BlockInv (loadPattern d i s) := by
  rcases loadPattern_cases d i s with ⟨-, he⟩ | ⟨_, -, -, he⟩ | ⟨_, _, -, -, he⟩ <;> rw [he]
  · exact h.after_raiseError (by decide)
  · exact h.after_raiseError (by decide)
  · exact .of_idle hs (h.errCause_none (by simp [hs])) (h.startPending_false (by simp [hs])) (countsMatch_of_invalid rfl)

theorem BlockInv.after_clearError {s : State} (h : BlockInv s) (hs : s.state = .idle ∨ s.state = .error) :
    BlockInv (clearError s) :=
  .of_idle (by rcases hs with hs | hs <;> simp [hs]) rfl
    (h.startPending_false (by rcases hs with hs | hs <;> simp [hs]))
    (countsMatch_of_same h.valid rfl rfl (sameConfig.refl s))

theorem BlockInv.after_abortEffect {s : State} (h : BlockInv s) : BlockInv (abortEffect s) := by
  rcases abortEffect_cases s with ⟨-, he⟩ | ⟨hs, he⟩ | ⟨hs, he⟩ <;> rw [he]
  · exact h
  · exact .of_idle rfl (by simpa using h.errCause_none (by simp [hs])) rfl
      (countsMatch_of_invalid (by simpa using h.computing hs))
  · refine .of_idle rfl (by simpa using h.errCause_none (by simp [hs]))
      (by simpa using h.startPending_false (by simp [hs])) (countsMatch_of_same h.valid (by simp) (by simp) ?_)
    rw [endOpenStream_frame]; exact sameConfig.refl s

theorem BlockInv.after_effectOf {s : State} (h : BlockInv s) {i : Instr} (ha : accepted i s.state = true) :
    BlockInv (effectOf i s) := by
  cases i with
  | nop => exact h
  | loadPattern d i => exact h.after_loadPattern ((accepted_loadPattern d i s.state).mp ha) d i
  | compute =>
    have hs := (accepted_compute s.state).mp ha
    exact .of_computing rfl (h.errCause_none (by simp [hs])) rfl (fun hp => absurd hp Bool.false_ne_true)
  | start =>
    have hs := (accepted_start s.state).mp ha
    exact .of_computing rfl (h.errCause_none (by simp [hs])) rfl (fun _ => rfl)
  | abort => exact h.after_abortEffect
  | clear => exact h.after_clearError ((accepted_clear s.state).mp ha)
  | reset => exact .after_resetBlock _

/-- An accepted configuration write clears COUNTS_VALID, or it is one of ON_LEVEL, which no computation reads. -/
theorem countsMatch_configWrite {s : State} (h : countsMatch s) {r : Reg} (hr : isConfig r = true) (v : Word) :
    countsMatch (noteTimingWrite r (setConfig r v s)) := by
  by_cases hl : r = .onLevel
  · subst hl; exact h
  · exact countsMatch_of_invalid (by simp [isTiming_of_isConfig hr, hl])

theorem BlockInv.after_configWrite {s : State} (h : BlockInv s) {r : Reg} (hr : isConfig r = true) (hb : busy s = false)
    (v : Word) : BlockInv (noteTimingWrite r (setConfig r v s)) := by
  have hm := countsMatch_configWrite h.valid hr v
  cases hs : s.state with
  | idle =>
    exact .of_idle (by simp [hs]) (by simpa using h.errCause_none (by simp [hs]))
      (by simpa using h.startPending_false (by simp [hs])) hm
  | error =>
    exact .of_error (by simp [hs]) (by simpa using h.cause.mpr hs)
      (by simpa using h.startPending_false (by simp [hs])) hm
  | computing => simp [busy, hs] at hb
  | emitting => simp [busy, hs] at hb

/-- A failed computation has a cause (41_synthesis R161). -/
theorem quantize_error_ne_none {fs pw pri n bp md : Nat} {c : Cause} (h : quantize fs pw pri n bp md = .error c) :
    c ≠ .none := by
  rintro rfl
  unfold quantize at h
  simp only at h
  split_ifs at h <;> simp at h

/-- A computation that succeeds has a result within the checks of 41_synthesis R162 and R171. -/
theorem quantize_result {fs pw pri n bp md : Nat} {r : QuantResult} (h : quantize fs pw pri n bp md = .result r) :
    r = computeCounts fs pw pri n bp md ∧ n ≠ 0 ∧ r.pulseSamples < r.priSamples ∧ r.totalSamples ≤ 2 ^ 63 - 1 := by
  unfold quantize at h
  simp only at h
  split_ifs at h with h1 h2 h3 h4 h5 h6
  obtain rfl := QuantOutcome.result.inj h
  exact ⟨rfl, h2, not_le.mp h4, not_lt.mp h6⟩

/-- A computation that succeeds leaves at least one sample to emit, and the register holds the exact total (41_synthesis
R170). -/
theorem totalSamples_pos_of_result {s : State} {r : QuantResult} (h : quantizeState s = .result r) :
    0 < (storeCounts r).totalSamples.toNat := by
  obtain ⟨hr, hn, hps, htot⟩ := quantize_result h
  have hburst : 0 < r.totalBurstSamples := by
    rw [hr] at hps ⊢
    exact Nat.add_pos_left (Nat.mul_pos (Nat.pos_of_ne_zero hn) (Nat.zero_lt_of_lt hps)) _
  have hcount : 0 < r.burstCount := by
    rw [hr]; exact le_max_left 1 _
  have hprod : r.totalSamples = r.totalBurstSamples * r.burstCount := by
    rw [hr]; rfl
  have hpos : 0 < r.totalSamples := hprod ▸ Nat.mul_pos hburst hcount
  simp only [storeCounts, BitVec.toNat_ofNat]
  omega

theorem BlockInv.after_coreStep {s : State} (h : BlockInv s) : BlockInv (coreStep s) := by
  rcases coreStep_cases s with ⟨-, he⟩ | ⟨-, c, hc, he⟩ | ⟨hs, hp, r, hr, he⟩ | ⟨hs, hp, r, hr, he⟩ <;> rw [he]
  · exact h
  · exact h.after_raiseError (quantize_error_ne_none hc)
  · refine .of_emitting rfl (h.errCause_none (by simp [hs])) rfl rfl ?_ fun _ => ⟨r, hr, rfl⟩
    have hpos := totalSamples_pos_of_result hr
    simpa [h.startAtZero hp] using hpos
  · exact .of_idle rfl (h.errCause_none (by simp [hs])) hp fun _ => ⟨r, hr, rfl⟩

theorem BlockInv.after_sinkErrorStep {s : State} (h : BlockInv s) : BlockInv (sinkErrorStep s) := by
  rcases sinkErrorStep_cases s with ⟨-, he⟩ | ⟨-, he⟩ <;> rw [he]
  · exact h.after_raiseError (by decide)
  · exact h

/-- A byte that is defined and not the last leaves `pos` below the byte count, without a wrap (42_emission R190). -/
theorem pos_succ_lt_of_not_last {s : State} (hb : byteDefined (waveform s) s.pos.toNat = true)
    (hl : isLast (waveform s) s.pos.toNat = false) : (s.pos + 1).toNat < 2 * s.counts.totalSamples.toNat := by
  simp only [byteDefined, Bool.and_eq_true, decide_eq_true_eq] at hb
  simp only [isLast, decide_eq_false_iff_not] at hl
  obtain ⟨⟨-, hlt⟩, hfit⟩ := hb
  have htot : (waveform s).totalSamples = s.counts.totalSamples.toNat := rfl
  have hsucc : (s.pos + 1).toNat = s.pos.toNat + 1 :=
    BitVec.toNat_add_of_lt (by change s.pos.toNat + 1 < 2 ^ 64; omega)
  omega

theorem BlockInv.after_emitterStep {s t : State} (h : BlockInv s) (he : emitterStep s = .next t) : BlockInv t := by
  rcases emitterStep_cases he with ⟨-, rfl⟩ | ⟨hs, -, -, rfl⟩ | ⟨hs, hb, hl, rfl⟩
  · exact h
  · exact .of_idle rfl (h.errCause_none (by simp [hs])) (h.startPending_false (by simp [hs]))
      (countsMatch_of_same h.valid rfl rfl (sameConfig.refl s))
  · exact .of_emitting hs (h.errCause_none (by simp [hs])) (h.startPending_false (by simp [hs])) (h.emitting hs).1
      (pos_succ_lt_of_not_last hb hl) (countsMatch_of_same h.valid rfl rfl (sameConfig.refl s))

/-- Settles O49: the invariant does not read what a turn takes off its lists, and the update of each turn keeps it. -/
theorem everyStepKeepsTheBlockInvariant : Obligations.EveryStepKeepsTheBlockInvariant := by
  intro s t hs hstep
  obtain ⟨u, hsu, effect⟩ := step_effect hstep
  have h : BlockInv u := hs.of_sameBlock hsu
  cases effect with
  | idle _ ht => rw [ht]; exact h
  | read addr _ _ _ ht => rw [ht, memReadState_frame]; exact h.of_unread
  | rejected _ _ _ _ ht => rw [ht]; exact h.of_unread
  | ignored _ _ _ ht => rw [ht]; exact h
  | command i _ ha ht => rw [ht]; exact h.after_effectOf ha
  | status _ _ ht => rw [ht]; exact h.of_unread
  | irqEn _ _ ht => rw [ht]; exact h.of_unread
  | config r v _ hr hb ht => rw [ht]; exact h.after_configWrite hr hb v
  | core _ ht => rw [ht]; exact h.after_coreStep
  | accept _ he => exact h.after_emitterStep he
  | sinkError _ ht => rw [ht]; exact h.after_sinkErrorStep
  | hardReset _ ht => rw [ht]; exact .after_resetBlock u

end Sys2Proof.Machine
end

section
/-! What one step changes in the configuration, the results, COUNTS_VALID, the sticky flags, EMIT_BYTES and its latch: for
each, a case analysis over the update of the step. The named cases are those that write the field. -/

namespace Sys2Proof.Machine

/-- Every change of EMIT_BYTES by a command is START's or RESET's, and clears it. -/
theorem effectOf_pos_cases (i : Instr) (s : State) :
    (effectOf i s).pos = s.pos ∨ ((i = .start ∨ i = .reset) ∧ (effectOf i s).pos = 0) := by
  by_cases hs : i = .start
  · subst hs; exact .inr ⟨.inl rfl, rfl⟩
  · by_cases hr : i = .reset
    · subst hr; exact .inr ⟨.inr rfl, rfl⟩
    · exact .inl (effectOf_pos hs hr s)

/-- Settles O60: START and the two resets clear EMIT_BYTES, an acceptance adds 1, every other update keeps it. -/
theorem emitBytesCountsAcceptedBytes : Obligations.EmitBytesCountsAcceptedBytes := by
  intro s t hstep hne
  obtain ⟨u, hsu, effect⟩ := step_effect hstep
  rw [← sameBlock_pos hsu] at hne ⊢
  rw [← sameBlock_state hsu]
  cases effect with
  | command i e ha ht =>
    subst ht
    rcases effectOf_pos_cases i u with hsame | ⟨rfl | rfl, hzero⟩
    · exact absurd hsame hne
    · exact .inl ⟨e, (accepted_start u.state).mp ha, hzero⟩
    · exact .inr (.inl ⟨.inl e, hzero⟩)
  | accept e he =>
    rcases emitterStep_pos_cases he with hsame | ⟨hs, hpos⟩
    · exact absurd hsame hne
    · exact .inr (.inr ⟨e, hs, hpos⟩)
  | hardReset e ht => exact .inr (.inl ⟨.inr e, by rw [ht]; rfl⟩)
  | _ => subst_vars; simp at hne

/-- A host write to a result register is ignored (10_state R47). -/
theorem writeReg_result {r : Reg} (hlo : regOffset .pulseSamples ≤ regOffset r)
    (hhi : regOffset r ≤ regOffset .padTimeNsHi) (v : Word) (s : State) : writeReg r v s = .next s := by
  revert hlo hhi; cases r <;> simp [regOffset, writeReg, isConfig]

/-- Settles O55: the Core step and the two resets are the updates that write the result registers. -/
theorem countsAreWrittenTogetherOrNotAtAll : Obligations.CountsAreWrittenTogetherOrNotAtAll := by
  refine ⟨fun s t hstep hne => ?_, fun r v s hlo hhi => ?_⟩
  · obtain ⟨u, hsu, effect⟩ := step_effect hstep
    rw [← sameBlock_counts hsu] at hne
    rw [← sameBlock_state hsu, ← quantizeState_of_sameConfig (sameBlock_sameConfig hsu)]
    cases effect with
    | command i e ha ht =>
      subst ht
      by_cases hi : i = .reset
      · subst hi; exact .inr ⟨.inl e, rfl⟩
      · exact absurd (effectOf_counts hi u) hne
    | core e ht =>
      subst ht
      rcases coreStep_results_cases u with ⟨hsame, -⟩ | ⟨hs, hr⟩
      · exact absurd hsame hne
      · exact .inl ⟨e, hs, hr⟩
    | accept e he => exact absurd (by rw [emitterStep_frame he]) hne
    | hardReset e ht => exact .inr ⟨.inr e, by rw [ht]; rfl⟩
    | _ => subst_vars; simp at hne
  · rw [memWrite_offset, writeReg_result hlo hhi]

/-- An accepted command that changes COUNTS_VALID clears it; which commands do (10_state R37). -/
theorem effectOf_countsValid_cases {i : Instr} {s : State} (ha : accepted i s.state = true) :
    (effectOf i s).countsValid = s.countsValid ∨
    ((effectOf i s).countsValid = false ∧
      ((∃ dom idx, i = .loadPattern dom idx ∧ s.state = .idle ∧ domainOf dom ≠ none ∧ indexOf idx ≠ none) ∨
        (i = .compute ∧ s.state = .idle) ∨ (i = .start ∧ s.state = .idle) ∨ i = .reset)) := by
  cases i with
  | nop | clear => exact .inl rfl
  | abort => left; simp only [effectOf]; rw [abortEffect_frame]
  | loadPattern dom idx =>
    simp only [effectOf]
    rcases loadPattern_cases dom idx s with ⟨-, he⟩ | ⟨_, -, -, he⟩ | ⟨_, _, hd, hi, he⟩ <;> rw [he]
    · exact .inl (by simp)
    · exact .inl (by simp)
    · exact .inr ⟨rfl, .inl ⟨dom, idx, rfl, (accepted_loadPattern dom idx s.state).mp ha, by simp [hd], by simp [hi]⟩⟩
  | compute => exact .inr ⟨rfl, .inr (.inl ⟨rfl, (accepted_compute s.state).mp ha⟩)⟩
  | start => exact .inr ⟨rfl, .inr (.inr (.inl ⟨rfl, (accepted_start s.state).mp ha⟩))⟩
  | reset => exact .inr ⟨rfl, .inr (.inr (.inr rfl))⟩

/-- A step that sets COUNTS_VALID is a successful Core step. -/
theorem step_sets_countsValid {s t : State} (hstep : step s = .next t) (hs : s.countsValid = false)
    (ht : t.countsValid = true) : nextIsCore s ∧ s.state = .computing ∧ ∃ r, quantizeState s = .result r := by
  obtain ⟨u, hsu, effect⟩ := step_effect hstep
  rw [← sameBlock_countsValid hsu] at hs
  rw [← sameBlock_state hsu, ← quantizeState_of_sameConfig (sameBlock_sameConfig hsu)]
  cases effect with
  | command i e ha h =>
    subst h
    rcases effectOf_countsValid_cases ha with hsame | ⟨hclear, -⟩
    · simp [hsame, hs] at ht
    · simp [hclear] at ht
  | core e h =>
    subst h
    rcases coreStep_results_cases u with ⟨-, hsame⟩ | ⟨hcomp, r, hr, -, -⟩
    · simp [hsame, hs] at ht
    · exact ⟨e, hcomp, r, hr⟩
  | accept e he => rw [emitterStep_frame he] at ht; simp [hs] at ht
  | hardReset e h => subst h; exact absurd ht Bool.false_ne_true
  | _ => subst_vars; simp [hs] at ht

/-- What clears COUNTS_VALID. -/
theorem step_clears_countsValid {s t : State} (hstep : step s = .next t) (hs : s.countsValid = true)
    (ht : t.countsValid = false) :
    (∃ r v, nextAccessIs s (.write (regOffset r) v) ∧ isTiming r = true ∧ busy s = false) ∨
    (∃ d i, nextIsCommand s (.loadPattern d i) ∧ s.state = .idle ∧ domainOf d ≠ none ∧ indexOf i ≠ none) ∨
    (nextIsCommand s .compute ∧ s.state = .idle) ∨ (nextIsCommand s .start ∧ s.state = .idle) ∨
    nextIsCommand s .reset ∨ nextTurnIs s .hardReset := by
  obtain ⟨u, hsu, effect⟩ := step_effect hstep
  rw [← sameBlock_countsValid hsu] at hs
  rw [← sameBlock_state hsu, ← sameBlock_busy hsu]
  cases effect with
  | command i e ha h =>
    subst h
    rcases effectOf_countsValid_cases ha with
      hsame | ⟨-, ⟨dom, idx, rfl, hidle, hd, hi⟩ | ⟨rfl, hidle⟩ | ⟨rfl, hidle⟩ | rfl⟩
    · simp [hsame, hs] at ht
    · exact .inr (.inl ⟨dom, idx, e, hidle, hd, hi⟩)
    · exact .inr (.inr (.inl ⟨e, hidle⟩))
    · exact .inr (.inr (.inr (.inl ⟨e, hidle⟩)))
    · exact .inr (.inr (.inr (.inr (.inl e))))
  | config r v e _ hb h =>
    subst h
    exact .inl ⟨r, v, e, by simpa [hs] using ht, hb⟩
  | core e h =>
    subst h
    rcases coreStep_results_cases u with ⟨-, hsame⟩ | ⟨-, _, -, -, hset⟩
    · simp [hsame, hs] at ht
    · simp [hset] at ht
  | accept e he => rw [emitterStep_frame he] at ht; simp [hs] at ht
  | hardReset e h => exact .inr (.inr (.inr (.inr (.inr e))))
  | _ => subst_vars; simp [hs] at ht

/-- Settles O56: the Core step sets COUNTS_VALID, and the accesses and resets of 10_state R37 clear it. -/
theorem countsValidBookkeeping : Obligations.CountsValidBookkeeping :=
  ⟨fun _ _ hstep hs ht => step_sets_countsValid hstep hs ht, fun _ _ hstep hs ht => step_clears_countsValid hstep hs ht⟩

/-- REJECTED is cleared by a STATUS write with bit 6, apart from the two resets. -/
theorem step_clears_rejected {s t : State} (hstep : step s = .next t) (hreset : ¬ nextIsCommand s .reset)
    (hhard : ¬ nextTurnIs s .hardReset) (hs : s.rejected = true) (ht : t.rejected = false) :
    ∃ v : Word, v.getLsbD 6 = true ∧ nextAccessIs s (.write (regOffset .status) v) := by
  obtain ⟨u, hsu, effect⟩ := step_effect hstep
  rw [← sameBlock_rejected hsu] at hs
  cases effect with
  | read addr _ _ _ h => subst h; simp [memReadState_keeps_rejected addr hs] at ht
  | command i e _ h =>
    subst h
    rw [effectOf_rejected (fun hi => hreset (hi ▸ e)), hs] at ht
    simp at ht
  | status v e h => subst h; exact ⟨v, by simpa [hs] using ht, e⟩
  | accept e he => rw [emitterStep_frame he] at ht; simp [hs] at ht
  | hardReset e _ => exact absurd e hhard
  | _ => subst_vars; simp [hs] at ht

/-- DONE is cleared by a STATUS write with bit 4 or an accepted START, apart from the two resets. -/
theorem step_clears_done {s t : State} (hstep : step s = .next t) (hreset : ¬ nextIsCommand s .reset)
    (hhard : ¬ nextTurnIs s .hardReset) (hs : s.done = true) (ht : t.done = false) :
    (∃ v : Word, v.getLsbD 4 = true ∧ nextAccessIs s (.write (regOffset .status) v)) ∨
      (nextIsCommand s .start ∧ s.state = .idle) := by
  obtain ⟨u, hsu, effect⟩ := step_effect hstep
  rw [← sameBlock_done hsu] at hs
  rw [← sameBlock_state hsu]
  cases effect with
  | command i e ha h =>
    subst h
    by_cases hi : i = .start
    · subst hi; exact .inr ⟨e, (accepted_start u.state).mp ha⟩
    · rw [effectOf_done hi (fun hi => hreset (hi ▸ e)), hs] at ht
      simp at ht
  | status v e h => subst h; exact .inl ⟨v, by simpa [hs] using ht, e⟩
  | accept e he => simp [emitterStep_keeps_done he hs] at ht
  | hardReset e _ => exact absurd e hhard
  | _ => subst_vars; simp [hs] at ht

/-- ABORTED is cleared by a STATUS write with bit 5 or an accepted START, apart from the two resets. -/
theorem step_clears_aborted {s t : State} (hstep : step s = .next t) (hreset : ¬ nextIsCommand s .reset)
    (hhard : ¬ nextTurnIs s .hardReset) (hs : s.aborted = true) (ht : t.aborted = false) :
    (∃ v : Word, v.getLsbD 5 = true ∧ nextAccessIs s (.write (regOffset .status) v)) ∨
      (nextIsCommand s .start ∧ s.state = .idle) := by
  obtain ⟨u, hsu, effect⟩ := step_effect hstep
  rw [← sameBlock_aborted hsu] at hs
  rw [← sameBlock_state hsu]
  cases effect with
  | command i e ha h =>
    subst h
    by_cases hi : i = .start
    · subst hi; exact .inr ⟨e, (accepted_start u.state).mp ha⟩
    · simp [effectOf_keeps_aborted hi (fun hi => hreset (hi ▸ e)) hs] at ht
  | status v e h => subst h; exact .inl ⟨v, by simpa [hs] using ht, e⟩
  | accept e he => rw [emitterStep_frame he] at ht; simp [hs] at ht
  | hardReset e _ => exact absurd e hhard
  | _ => subst_vars; simp [hs] at ht

/-- Settles O57: each flag by its own lemma, the STATUS write at its offset 0x08. -/
theorem stickyFlagsStayUntilCleared : Obligations.StickyFlagsStayUntilCleared :=
  fun _ _ hstep hreset hhard =>
    ⟨step_clears_rejected hstep hreset hhard, step_clears_done hstep hreset hhard,
      step_clears_aborted hstep hreset hhard⟩

/-- A step that changes the latch reads EMIT_BYTES_LO or is one of the two resets (10_state R49). -/
theorem step_changes_latch {s t : State} (hstep : step s = .next t) (hne : t.emitHiLatch ≠ s.emitHiLatch) :
    nextAccessIs s (.read (regOffset .emitBytesLo)) ∨ nextIsCommand s .reset ∨ nextTurnIs s .hardReset := by
  obtain ⟨u, hsu, effect⟩ := step_effect hstep
  rw [← sameBlock_emitHiLatch hsu] at hne
  cases effect with
  | read addr _ _ ha h =>
    subst h
    have hlo : addr = regOffset .emitBytesLo := not_not.mp fun hn => hne (memReadState_latch_of_ne hn u)
    subst hlo
    exact .inl (ha.resolve_right (by decide))
  | command i e _ h =>
    subst h
    by_cases hi : i = .reset
    · subst hi; exact .inr (.inl e)
    · exact absurd (effectOf_emitHiLatch hi u) hne
  | accept e he => exact absurd (by rw [emitterStep_frame he]) hne
  | hardReset e _ => exact .inr (.inr e)
  | _ => subst_vars; simp at hne

/-- Settles O39: the two offsets by their registers, the pair by `joinHalves_halves`, the steps by `step_changes_latch`. -/
theorem emitBytesReadLatch : Obligations.EmitBytesReadLatch := by
  refine ⟨rfl, fun s => ⟨memReadValue_offset .emitBytesLo s, memReadState_offset .emitBytesLo s,
    memReadValue_offset .emitBytesHi s, memReadState_offset .emitBytesHi s⟩, fun s t hlatch => ?_,
    fun s t hstep hne => step_changes_latch hstep hne⟩
  have hhi : memReadValue 0x84 t = highHalf s.pos :=
    (memReadValue_offset .emitBytesHi t).trans
      (hlatch.trans (congrArg State.emitHiLatch (memReadState_offset .emitBytesLo s)))
  have hlo : memReadValue 0x80 s = lowHalf s.pos := memReadValue_offset .emitBytesLo s
  rw [hhi, hlo, joinHalves_halves]

/-- While busy the configuration outlives every step but the two resets (10_state R36). -/
theorem step_sameConfig_of_busy {s t : State} (hb : busy s = true) (hstep : step s = .next t)
    (hreset : ¬ nextIsCommand s .reset) (hhard : ¬ nextTurnIs s .hardReset) : sameConfig s t := by
  obtain ⟨u, hsu, effect⟩ := step_effect hstep
  have hbu : busy u = true := (sameBlock_busy hsu).trans hb
  refine sameConfig.trans (sameBlock_sameConfig hsu) ?_
  cases effect with
  | read addr _ v _ h => rw [h]; exact memReadState_sameConfig addr u
  | command i e ha h => rw [h]; exact effectOf_sameConfig_of_busy (fun hi => hreset (hi ▸ e)) ha hbu
  | config r v _ _ hfree _ => simp [hbu] at hfree
  | core _ h => rw [h]; exact coreStep_sameConfig u
  | accept _ he => exact emitterStep_sameConfig he
  | sinkError _ h => rw [h]; exact sinkErrorStep_sameConfig u
  | hardReset e _ => exact absurd e hhard
  | idle _ h | rejected _ _ _ _ h | ignored _ _ _ h | status _ _ h | irqEn _ _ h => rw [h]; exact sameConfig.refl u

end Sys2Proof.Machine
end

section
/-! The register window: what accesses at the written-out offsets do. -/

namespace Sys2Proof.Machine

/-! ## STATUS, ERR_CAUSE and the offsets that ignore writes -/

/-- Settles O37: the write-1-to-clear of `writeStatus`, at offset 0x08. -/
theorem statusWriteClearsStickyFlags : Obligations.StatusWriteClearsStickyFlags := by
  intro v s
  refine (memWrite_offset .status v s).trans ?_
  have clear : ∀ b flag : Bool, (flag && !b) = if b then false else flag := by decide
  simp only [writeReg, writeStatus, clear]

/-- STATE is bits 1 to 0 of STATUS (10_state R24). -/
theorem statusWord_state (s : State) : (statusWord s).extractLsb' 0 2 = runStateCode s.state := by
  refine BitVec.eq_of_getLsbD_eq fun k hk => ?_
  rw [BitVec.getLsbD_extractLsb', Nat.zero_add, statusWord_bit s (by omega)]
  interval_cases k <;> simp

/-- Bits 31 to 8 of STATUS are reserved (10_state R24, R50). -/
theorem statusWord_reserved (s : State) : (statusWord s).extractLsb' 8 24 = 0#24 := by
  refine BitVec.eq_of_getLsbD_eq fun k hk => ?_
  rw [BitVec.getLsbD_extractLsb', statusWord_bit s (by omega)]
  simp [show 8 + k ≠ 0 ∧ 8 + k ≠ 1 ∧ 8 + k ≠ 2 ∧ 8 + k ≠ 3 ∧ 8 + k ≠ 4 ∧ 8 + k ≠ 5 ∧ 8 + k ≠ 6 ∧ 8 + k ≠ 7 by omega]

/-- Settles O38: STATUS bit by bit with `statusWord_bit`, ERR_CAUSE by `causeCode`. -/
theorem statusAndErrCauseReadTheirFields : Obligations.StatusAndErrCauseReadTheirFields := by
  refine ⟨fun s => ?_, fun row hrow s hs => ?_⟩
  · rw [show memReadValue 0x08 s = statusWord s from memReadValue_offset .status s]
    have herr : (statusWord s).getLsbD 7 = true ↔ s.state = .error := by
      rw [statusWord_bit s (by decide)]; exact beq_iff_eq
    exact ⟨statusWord_state s, statusWord_bit s (by decide), statusWord_bit s (by decide), statusWord_bit s (by decide),
      statusWord_bit s (by decide), statusWord_bit s (by decide), herr, statusWord_reserved s,
      rfl, rfl, rfl, rfl⟩
  · have hcode : BitVec.ofNat 32 row.2 = (causeCode row.1).setWidth 32 := by
      clear hs; revert row; decide
    rw [show memReadValue 0x0C s = (causeCode s.errCause).setWidth 32 from memReadValue_offset .errCause s, hs, hcode]

theorem misaligned_iff (addr : Byte) : misaligned addr = true ↔ addr.toNat % 4 ≠ 0 := by
  simp [misaligned, ← BitVec.toNat_inj]

/-- No register stands at a reserved offset (10_state R50). -/
theorem regAt_reserved {addr : Byte} (h : addr = 0x38 ∨ addr = 0x3C ∨ 0x88 ≤ addr.toNat) : regAt addr = none := by
  cases hr : regAt addr with
  | none => rfl
  | some r =>
    obtain rfl := regAt_some hr
    revert h; cases r <;> decide

theorem memWrite_reserved {addr : Byte} (ha : misaligned addr = false) (hr : regAt addr = none) (v : Word) (s : State) :
    memWrite addr v s = .next s := by simp [memWrite, ha, hr]

theorem memReadValue_reserved {addr : Byte} (ha : misaligned addr = false) (hr : regAt addr = none) (s : State) :
    memReadValue addr s = 0 := by simp [memReadValue, ha, hr]

theorem memReadState_reserved {addr : Byte} (ha : misaligned addr = false) (hr : regAt addr = none) (s : State) :
    memReadState addr s = s := by simp [memReadState, ha, hr]

/-- A field widened to a word has zeros above its width. -/
theorem extractLsb'_setWidth_above {n m : Nat} (x : BitVec n) : (x.setWidth 32).extractLsb' n m = 0#m := by
  refine BitVec.eq_of_getLsbD_eq fun k hk => ?_
  simp

/-- Words with the same low bits agree on each of them. -/
theorem getLsbD_of_extractLsb'_eq {n : Nat} {v v' : Word} (h : v.extractLsb' 0 n = v'.extractLsb' 0 n) {k : Nat}
    (hk : k < n) : v.getLsbD k = v'.getLsbD k := by
  simpa [hk] using congrArg (BitVec.getLsbD · k) h

/-- A STATUS write reads bits 4, 5 and 6 of its word alone (10_state R26). -/
theorem writeStatus_congr {v v' : Word} (h : v.extractLsb' 0 8 = v'.extractLsb' 0 8) (s : State) :
    writeStatus v s = writeStatus v' s := by
  simp only [writeStatus, getLsbD_of_extractLsb'_eq h (show 4 < 8 by decide),
    getLsbD_of_extractLsb'_eq h (show 5 < 8 by decide), getLsbD_of_extractLsb'_eq h (show 6 < 8 by decide)]

/-- Settles O40, clause by clause; each defined offset by its register. -/
theorem fixedReadsAndIgnoredWrites : Obligations.FixedReadsAndIgnoredWrites := by
  refine ⟨fun addr halign hres v s => ?_, fun s => ⟨?_, ?_, ?_, ?_⟩, fun v v' s h => ⟨?_, ?_⟩, fun v v' s h => ?_,
    fun v s => memWrite_offset .errCause v s,
    fun v s => ⟨memReadValue_offset .id s, memReadState_offset .id s, memWrite_offset .id v s⟩,
    fun s => ⟨memReadValue_offset .cmd s, memReadState_offset .cmd s⟩,
    fun v s => ⟨memWrite_offset .emitBytesLo v s, memWrite_offset .emitBytesHi v s⟩⟩
  · have ha : misaligned addr = false := Bool.eq_false_iff.mpr fun hm => (misaligned_iff addr).mp hm halign
    have hr := regAt_reserved hres
    exact ⟨memReadValue_reserved ha hr s, memReadState_reserved ha hr s, memWrite_reserved ha hr v s⟩
  · exact (congrArg _ (memReadValue_offset .status s)).trans (statusWord_reserved s)
  · exact (congrArg _ (memReadValue_offset .errCause s)).trans (extractLsb'_setWidth_above (causeCode s.errCause))
  · exact (congrArg _ (memReadValue_offset .irqEn s)).trans (extractLsb'_setWidth_above s.irqEn)
  · exact (congrArg _ (memReadValue_offset .onLevel s)).trans (extractLsb'_setWidth_above s.onLevel)
  · rw [show (0x08 : Byte) = regOffset .status from rfl, memWrite_offset, memWrite_offset]
    simp only [writeReg, writeStatus_congr h]
  · rw [show (0x14 : Byte) = regOffset .onLevel from rfl, memWrite_offset, memWrite_offset]
    simp only [writeReg, writeConfig, setConfig, h]
  · rw [show (0x10 : Byte) = regOffset .irqEn from rfl, memWrite_offset, memWrite_offset]
    simp only [writeReg, writeIrqEn, h]

/-- Settles O44: the reset state is a fixed state. -/
theorem resetValues : Obligations.ResetValues := by
  unfold Obligations.ResetValues
  decide

/-! ## The configuration registers -/

theorem writeReg_config {r : Reg} (hr : isConfig r = true) (v : Word) (s : State) :
    writeReg r v s = .next (writeConfig r v s) := by
  revert hr; cases r <;> simp [isConfig, writeReg]

theorem memWrite_config_busy {r : Reg} (hr : isConfig r = true) {s : State} (hb : busy s = true) (v : Word) :
    memWrite (regOffset r) v s = .next (reject s) := by
  rw [memWrite_offset, writeReg_config hr, writeConfig, if_pos hb]

theorem memWrite_config_free {r : Reg} (hr : isConfig r = true) {s : State} (hb : busy s = false) (v : Word) :
    memWrite (regOffset r) v s = .next (noteTimingWrite r (setConfig r v s)) := by
  rw [memWrite_offset, writeReg_config hr, writeConfig, if_neg (by simp [hb])]

/-- `{HI, LO}` is the concatenation of the two words (00_scope R8). -/
theorem joinHalves_eq_append (hi lo : Word) : joinHalves hi lo = hi ++ lo := by
  refine BitVec.eq_of_getLsbD_eq fun k hk => ?_
  rw [BitVec.getLsbD_append]
  by_cases h : k < 32
  · simp [joinHalves, h, hk]
  · simp [joinHalves, h, hk, BitVec.getLsbD_of_ge lo k (by omega)]

/-- ON_LEVEL keeps the low 8 bits of the word (10_state R29). -/
theorem setWidth_lowByte (v : Word) : (v.extractLsb' 0 8).setWidth 32 = v &&& 0x000000FF := by
  refine BitVec.eq_of_toNat_eq ?_
  have hand : v.toNat &&& 255 = v.toNat % 256 := Nat.and_two_pow_sub_one_eq_mod v.toNat 8
  simp [hand]
  omega

/-- What a read returns after the write: the word, ON_LEVEL's cut to 8 bits. -/
theorem readReg_setConfig_same {r : Reg} (hr : isConfig r = true) (v : Word) (s : State) :
    readReg r (noteTimingWrite r (setConfig r v s)) = if r = .onLevel then v &&& 0x000000FF else v := by
  revert hr
  cases r <;> simp [isConfig, noteTimingWrite, isTiming, setConfig, readReg, setWidth_lowByte]

theorem readResult_of_not_computing {s : State} (h : s.state ≠ .computing) (r : Reg) :
    readResult r s = resultHalf s.counts r := if_neg h

/-- Outside COMPUTING only STATUS reads COUNTS_VALID. -/
theorem readReg_noteTimingWrite {r' : Reg} (h : r' ≠ .status) {s : State} (hs : s.state ≠ .computing) (r : Reg) :
    readReg r' (noteTimingWrite r s) = readReg r' s := by
  rw [noteTimingWrite_frame]
  cases r' with
  | status => exact absurd rfl h
  | _ => simp [readReg, readResult_of_not_computing, hs]

/-- A register of another class reads no configuration register, outside COMPUTING. -/
theorem readReg_setConfig_of_not_config {r' : Reg} (hr' : isConfig r' = false) {s : State} (hs : s.state ≠ .computing)
    (r : Reg) (v : Word) : readReg r' (setConfig r v s) = readReg r' s := by
  revert hr'
  cases r' <;> simp [isConfig, readReg, readResult_of_not_computing, hs, statusWord, errFlag]

/-- A configuration register reads nothing of another one; the two halves of a 64-bit register are apart. -/
theorem readReg_setConfig_of_config {r r' : Reg} (hr : isConfig r = true) (hr' : isConfig r' = true) (hne : r' ≠ r)
    (v : Word) (s : State) : readReg r' (setConfig r v s) = readReg r' s := by
  revert hr hr' hne
  cases r <;> simp only [isConfig, Bool.false_eq_true, false_implies, forall_const] <;>
    cases r' <;> simp [readReg, setConfig]

/-- A configuration write while not busy changes no read but its own register's and STATUS (10_state R23). -/
theorem readReg_configWrite_of_ne {r r' : Reg} (hr : isConfig r = true) (hne : r' ≠ r) (hst : r' ≠ .status) {s : State}
    (hb : busy s = false) (v : Word) : readReg r' (noteTimingWrite r (setConfig r v s)) = readReg r' s := by
  have hs : s.state ≠ .computing := fun hc => by simp [busy, hc] at hb
  rw [readReg_noteTimingWrite hst (by simpa using hs)]
  cases hr' : isConfig r' with
  | false => exact readReg_setConfig_of_not_config hr' hs r v
  | true => exact readReg_setConfig_of_config hr hr' hne v s

/-- The whole effect of an accepted configuration write: configuration registers and COUNTS_VALID. -/
theorem configWrite_frame (r : Reg) (v : Word) {s t : State} (ht : t = noteTimingWrite r (setConfig r v s)) :
    t = { s with
      onLevel := t.onLevel
      sampleRate := t.sampleRate
      pwNs := t.pwNs
      priNs := t.priNs
      pulseCount := t.pulseCount
      burstPeriodNs := t.burstPeriodNs
      minDurationNs := t.minDurationNs
      countsValid := t.countsValid } := by
  rw [ht, noteTimingWrite_frame, setConfig_frame]

/-- Settles O42: `memWrite_config_free` with the read-back and the frame of the write, then the nine offsets. -/
theorem configurationWriteReadsBack : Obligations.ConfigurationWriteReadsBack := by
  refine ⟨fun r v s hr hb => ⟨_, memWrite_config_free hr hb v, ?_, fun r' hne hst => ?_, ?_, configWrite_frame r v rfl⟩,
    fun v s hb => ?_, fun s => ?_⟩
  · rw [memReadValue_offset, readReg_setConfig_same hr]
  · rw [memReadValue_offset, memReadValue_offset, readReg_configWrite_of_ne hr hne hst hb]
  · rw [noteTimingWrite_countsValid, isTiming_of_isConfig hr]
    by_cases hl : r = .onLevel <;> simp [hl]
  · have write (r : Reg) (hr : isConfig r = true) := memWrite_config_free hr hb v
    have low (a : DWord) : setLowHalf a v = a.extractLsb' 32 32 ++ v := joinHalves_eq_append _ _
    have high (a : DWord) : setHighHalf a v = v ++ a.extractLsb' 0 32 := joinHalves_eq_append _ _
    simp only [← low, ← high]
    exact ⟨write .onLevel rfl, write .sampleRateHz rfl, write .pwNs rfl, write .priNs rfl, write .pulseCount rfl,
      write .burstPeriodNsLo rfl, write .burstPeriodNsHi rfl, write .minDurationNsLo rfl, write .minDurationNsHi rfl⟩
  · have read (r : Reg) := memReadValue_offset r s
    exact ⟨read .onLevel, read .sampleRateHz, read .pwNs, read .priNs, read .pulseCount,
      read .burstPeriodNsLo, read .burstPeriodNsHi, read .minDurationNsLo, read .minDurationNsHi⟩

/-- Settles O54: the lock of one access, the acceptance outside busy states, and `step_sameConfig_of_busy`. -/
theorem configurationIsLockedWhileBusy : Obligations.ConfigurationIsLockedWhileBusy := by
  refine ⟨fun r v s hr hb => memWrite_config_busy hr hb v, fun r v s hr hs => ?_, fun r => ?_,
    fun s t hb hstep hreset hhard => step_sameConfig_of_busy hb hstep hreset hhard⟩
  · have hb : busy s = false := by rcases hs with hs | hs <;> simp [busy, hs]
    refine ⟨_, memWrite_config_free hr hb v, by simp, ?_⟩
    rw [memReadValue_offset, readReg_setConfig_same hr]
  · cases r <;> decide

/-! ## The result registers -/

theorem readReg_result {r : Reg} (hlo : regOffset .pulseSamples ≤ regOffset r)
    (hhi : regOffset r ≤ regOffset .padTimeNsHi) (s : State) : readReg r s = readResult r s := by
  revert hlo hhi; cases r <;> simp [regOffset, readReg]

theorem readEffect_result {r : Reg} (hhi : regOffset r ≤ regOffset .padTimeNsHi) (s : State) : readEffect r s = s := by
  revert hhi; cases r <;> simp [regOffset, readEffect]

/-- A half of a result register reads the old value, or the value a computation that will succeed is to write
(70_reset_and_hazards R302). -/
theorem readResult_old_or_pending (r : Reg) (s : State) :
    readResult r s = resultHalf s.counts r ∨
      ∃ q, quantizeState s = .result q ∧ readResult r s = resultHalf (storeCounts q) r := by
  unfold readResult pendingCounts
  cases hq : quantizeState s with
  | error c => simp
  | result q =>
    by_cases hs : s.state = .computing
    · cases Config.resultRace s.raceStep (regOffset r) <;> simp [hs]
    · simp [hs]

/-- Every access to a result register: the read returns its half, changes nothing, and a write is ignored. -/
theorem resultRegister_access (s : State) {r : Reg} (hlo : regOffset .pulseSamples ≤ regOffset r)
    (hhi : regOffset r ≤ regOffset .padTimeNsHi) :
    (s.state ≠ .computing → memReadValue (regOffset r) s = resultHalf s.counts r) ∧
    (memReadValue (regOffset r) s = resultHalf s.counts r ∨
      ∃ q, quantizeState s = .result q ∧ memReadValue (regOffset r) s = resultHalf (storeCounts q) r) ∧
    memReadState (regOffset r) s = s ∧ (∀ v, memWrite (regOffset r) v s = .next s) := by
  rw [memReadValue_offset, readReg_result hlo hhi, memReadState_offset, readEffect_result hhi]
  refine ⟨fun hs => readResult_of_not_computing hs r, readResult_old_or_pending r s, rfl, fun v => ?_⟩
  rw [memWrite_offset, writeReg_result hlo hhi]

/-- Settles O43: every result register by `resultRegister_access`, the sixteen rows by their registers. -/
theorem resultReadsOldOrPending : Obligations.ResultReadsOldOrPending := by
  refine ⟨fun s r hlo hhi => resultRegister_access s hlo hhi, ?_⟩
  have row (r : Reg) (hlo : regOffset .pulseSamples ≤ regOffset r) (hhi : regOffset r ≤ regOffset .padTimeNsHi)
      (s : State) := resultRegister_access s hlo hhi
  simp only [List.forall_mem_cons, List.not_mem_nil, false_implies, implies_true, and_true]
  exact ⟨row .pulseSamples (by decide) (by decide), row .priSamples (by decide) (by decide),
    row .padSamplesLo (by decide) (by decide), row .padSamplesHi (by decide) (by decide),
    row .totalBurstSamplesLo (by decide) (by decide), row .totalBurstSamplesHi (by decide) (by decide),
    row .burstCountLo (by decide) (by decide), row .burstCountHi (by decide) (by decide),
    row .totalSamplesLo (by decide) (by decide), row .totalSamplesHi (by decide) (by decide),
    row .totalBurstTimeNsLo (by decide) (by decide), row .totalBurstTimeNsHi (by decide) (by decide),
    row .effectiveCycleNsLo (by decide) (by decide), row .effectiveCycleNsHi (by decide) (by decide),
    row .padTimeNsLo (by decide) (by decide), row .padTimeNsHi (by decide) (by decide)⟩

end Sys2Proof.Machine
end

section
/-! The invariant of the stream: what it asks at the start of an emission and after one more byte, and that every update of
a step keeps it. -/

namespace Sys2Proof.Machine

/-! ## What the invariant asks -/

theorem StreamInv.of_not_emitting {s : State} (hs : s.state ≠ .emitting) : StreamInv s :=
  fun he => absurd he hs

/-- Before the first byte the invariant asks nothing of the record. -/
theorem StreamInv.of_pos_zero {s : State} (hp : s.pos = 0) : StreamInv s :=
  fun _ => ⟨s.sinkRecord, by simp [streamedSoFar, hp]⟩

/-- The invariant speaks of no sticky flag, of neither IRQ_EN nor the latch, and not of the host or the schedule. -/
theorem StreamInv.of_unread {s : State} (h : StreamInv s) {d a r : Bool} {e : BitVec 4} {latch : Word}
    {prog : List HostOp} {turns : List Turn} {reads : List (Byte × Word)} {k : Nat} :
    StreamInv { s with
      done := d, aborted := a, rejected := r, irqEn := e, emitHiLatch := latch, hostProgram := prog
      schedule := turns, hostReads := reads, raceStep := k } := h

theorem StreamInv.of_sameBlock {s u : State} (h : StreamInv s) (hu : sameBlock s u) : StreamInv u := by
  obtain ⟨_, _, _, rfl⟩ := hu; exact h.of_unread

/-! ## The updates -/

/-- While EMITTING the accepted commands are NOP, ABORT and RESET, and no command enters EMITTING (43_control R220): a
command that leaves the block EMITTING has done nothing. -/
theorem effectOf_eq_self_of_emitting {i : Instr} {s : State} (ha : accepted i s.state = true)
    (he : (effectOf i s).state = .emitting) : effectOf i s = s := by
  cases i with
  | nop => rfl
  | loadPattern d i =>
    have hs := (accepted_loadPattern d i s.state).mp ha
    simp only [effectOf] at he
    rcases loadPattern_cases d i s with ⟨-, h⟩ | ⟨_, -, -, h⟩ | ⟨_, _, -, -, h⟩ <;> simp [h, hs] at he
  | compute | start => cases he
  | abort =>
    rcases abortEffect_cases s with ⟨-, h⟩ | ⟨-, h⟩ | ⟨-, h⟩
    · exact h
    all_goals simp [effectOf, h] at he
  | clear =>
    rcases (accepted_clear s.state).mp ha with hs | hs <;> simp [effectOf, hs] at he
  | reset => cases he

theorem StreamInv.after_effectOf {s : State} (h : StreamInv s) {i : Instr} (ha : accepted i s.state = true) :
    StreamInv (effectOf i s) := by
  intro he
  have hself := effectOf_eq_self_of_emitting ha he
  rw [hself] at he ⊢
  exact h he

/-- The configuration is written only while no stream is open (10_state R36). -/
theorem StreamInv.after_configWrite {s : State} (hb : busy s = false) (r : Reg) (v : Word) :
    StreamInv (noteTimingWrite r (setConfig r v s)) :=
  .of_not_emitting fun he => by
    have hs : s.state = .emitting := by simpa using he
    simp [busy, hs] at hb

/-- The Core step enters EMITTING with START_PENDING, where EMIT_BYTES is 0 (41_synthesis R160, R176). -/
theorem StreamInv.after_coreStep {s : State} (hinv : BlockInv s) (h : StreamInv s) : StreamInv (coreStep s) := by
  rcases coreStep_cases s with ⟨-, he⟩ | ⟨-, c, -, he⟩ | ⟨-, hp, r, -, he⟩ | ⟨-, -, r, -, he⟩ <;> rw [he]
  · exact h
  · exact .of_not_emitting (by simp)
  · exact .of_pos_zero (hinv.startAtZero hp)
  · exact .of_not_emitting (by simp)

theorem StreamInv.after_sinkErrorStep (s : State) : StreamInv (sinkErrorStep s) := by
  rcases sinkErrorStep_cases s with ⟨-, he⟩ | ⟨hs, he⟩ <;> rw [he]
  · exact .of_not_emitting (by simp)
  · exact .of_not_emitting hs

/-- A byte is defined below the byte count, which fits 64 bits, so that EMIT_BYTES does not wrap (41_synthesis R170). -/
theorem pos_succ_toNat {s : State} (hb : byteDefined (waveform s) s.pos.toNat = true) :
    (s.pos + 1).toNat = s.pos.toNat + 1 := by
  simp only [byteDefined, Bool.and_eq_true, decide_eq_true_eq] at hb
  obtain ⟨⟨-, hlt⟩, hfit⟩ := hb
  exact BitVec.toNat_add_of_lt (by change s.pos.toNat + 1 < 2 ^ 64; omega)

/-- An accepted byte extends the emitted part of the stream by the byte that was offered (42_emission R192, R199). -/
theorem streamedSoFar_deliverByte {s : State} (hb : byteDefined (waveform s) s.pos.toNat = true) :
    streamedSoFar (deliverByte s) =
      streamedSoFar s ++ [.byte (streamByte (waveform s) s.pos.toNat) false] := by
  have hw : waveform (deliverByte s) = waveform s := rfl
  have hpos : (deliverByte s).pos.toNat = s.pos.toNat + 1 := pos_succ_toNat hb
  simp only [streamedSoFar, hw, hpos, List.range_succ, List.map_append, List.map_singleton]

/-- An acceptance appends the next byte of the stream, or it is the final one and ends EMITTING (42_emission R192, R194). -/
theorem StreamInv.after_emitterStep {s t : State} (h : StreamInv s) (he : emitterStep s = .next t) : StreamInv t := by
  rcases emitterStep_cases he with ⟨-, rfl⟩ | ⟨-, -, -, rfl⟩ | ⟨hs, hb, hl, rfl⟩
  · exact h
  · exact .of_not_emitting (by simp)
  · intro _
    obtain ⟨before, hrec⟩ := h hs
    refine ⟨before, ?_⟩
    calc (deliverByte s).sinkRecord
        = s.sinkRecord ++ [.byte (streamByte (waveform s) s.pos.toNat) false] := by simp [hl]
      _ = before ++ (streamedSoFar s ++ [.byte (streamByte (waveform s) s.pos.toNat) false]) := by
          rw [hrec, List.append_assoc]
      _ = before ++ streamedSoFar (deliverByte s) := by rw [streamedSoFar_deliverByte hb]

/-- Settles O50: a step enters EMITTING with no byte accepted, extends the stream by the byte it offers, or leaves the
record, EMIT_BYTES and the waveform of an emission alone. -/
theorem everyStepKeepsTheStreamInvariant : Obligations.EveryStepKeepsTheStreamInvariant := by
  intro s t hinv hs hstep
  obtain ⟨u, hsu, effect⟩ := step_effect hstep
  have h : StreamInv u := hs.of_sameBlock hsu
  cases effect with
  | idle _ ht => rw [ht]; exact h
  | read addr _ _ _ ht => rw [ht, memReadState_frame]; exact h.of_unread
  | rejected _ _ _ _ ht => rw [ht]; exact h.of_unread
  | ignored _ _ _ ht => rw [ht]; exact h
  | command i _ ha ht => rw [ht]; exact h.after_effectOf ha
  | status _ _ ht => rw [ht]; exact h.of_unread
  | irqEn _ _ ht => rw [ht]; exact h.of_unread
  | config r v _ _ hb ht => rw [ht]; exact .after_configWrite hb r v
  | core _ ht => rw [ht]; exact .after_coreStep (hinv.of_sameBlock hsu) h
  | accept _ he => exact h.after_emitterStep he
  | sinkError _ ht => rw [ht]; exact .after_sinkErrorStep u
  | hardReset _ ht => rw [ht]; exact .of_not_emitting (s := resetBlock u) (by simp [State.reset])

end Sys2Proof.Machine
end

section
/-! Misaligned accesses to the register window (20_memory R74). -/

namespace Sys2Proof.Machine

theorem memWrite_misaligned {addr : Byte} (ha : misaligned addr = true) (v : Word) (s : State) :
    memWrite addr v s = .next (reject s) := if_pos ha

theorem memReadValue_misaligned {addr : Byte} (ha : misaligned addr = true) (s : State) : memReadValue addr s = 0 :=
  if_pos ha

theorem memReadState_misaligned {addr : Byte} (ha : misaligned addr = true) (s : State) :
    memReadState addr s = reject s := if_pos ha

/-- Settles O41: an offset that is no multiple of 4 is misaligned, and `reject()` sets REJECTED and nothing else. -/
theorem misalignedAccessesReject : Obligations.MisalignedAccessesReject := by
  intro addr hoff v s
  have ha := (misaligned_iff addr).mpr hoff
  exact ⟨memWrite_misaligned ha v s, memReadValue_misaligned ha s, memReadState_misaligned ha s⟩

end Sys2Proof.Machine
end

section
/-! The decoder and the encoder of command words (30_encoding R101 to R106): each says what the other does, and which words
are left over. -/

namespace Sys2Proof

/-! ## The four fields -/

/-- The word of a command is its operands and OP side by side, zeros above them (30_encoding R101). -/
theorem encode_eq_append (i : Instr) :
    encode i = ((operandsOf i).1 ++ (operandsOf i).2 ++ opcodeOf i).setWidth 32 := by
  rw [BitVec.setWidth_append_append_eq_shiftLeft_setWidth_or, encode]

@[simp] theorem opField_encode (i : Instr) : opField (encode i) = opcodeOf i := by
  rw [encode_eq_append, opField, BitVec.extractLsb'_setWidth_of_le (by decide), BitVec.extractLsb'_append_eq_right]

@[simp] theorem aField_encode (i : Instr) : aField (encode i) = (operandsOf i).2 := by
  rw [encode_eq_append, aField, BitVec.extractLsb'_setWidth_of_le (by decide),
    BitVec.extractLsb'_append_eq_of_le (by decide), BitVec.extractLsb'_append_eq_right]

@[simp] theorem bField_encode (i : Instr) : bField (encode i) = (operandsOf i).1 := by
  rw [encode_eq_append, bField, BitVec.extractLsb'_setWidth_of_le (by decide),
    BitVec.extractLsb'_append_eq_of_le (by decide), BitVec.extractLsb'_append_eq_left]

@[simp] theorem rsvField_encode (i : Instr) : rsvField (encode i) = 0#8 := by
  rw [encode_eq_append, rsvField]
  refine BitVec.eq_of_getLsbD_eq fun k hk => ?_
  simp

/-- The four fields side by side are the word (30_encoding R101). -/
theorem fields_append (w : Word) : rsvField w ++ bField w ++ aField w ++ opField w = w := by
  unfold rsvField bField aField opField
  rw [BitVec.extractLsb'_append_extractLsb'_eq_extractLsb' (by decide),
    BitVec.extractLsb'_append_extractLsb'_eq_extractLsb' (by decide),
    BitVec.extractLsb'_append_extractLsb'_eq_extractLsb' (by decide)]
  exact BitVec.extractLsb'_eq_self

theorem word_eq_of_fields {v w : Word} (hop : opField v = opField w) (ha : aField v = aField w)
    (hb : bField v = bField w) (hr : rsvField v = rsvField w) : v = w := by
  rw [← fields_append v, ← fields_append w, hop, ha, hb, hr]

/-! ## The decoder, an equation per case (30_encoding R104) -/

theorem operandlessOf_eq_some_iff (op : Byte) (i : Instr) :
    operandlessOf op = some i ↔ i.operandless = true ∧ op = opcodeOf i := by
  constructor
  · intro h
    unfold operandlessOf at h
    split_ifs at h <;> cases h <;> exact ⟨rfl, ‹_›⟩
  · rintro ⟨hi, rfl⟩
    cases i with
    | loadPattern d i => cases hi
    | nop | compute | start | abort | clear | reset => rfl

theorem decode_reserved {w : Word} (hr : rsvField w ≠ 0#8) : decode w = .illegal .reservedField := if_pos hr

theorem decode_loadPattern {w : Word} (hr : rsvField w = 0#8) (hop : opField w = 0x01#8) :
    decode w = .command (.loadPattern (aField w) (bField w)) := by
  simp [decode, hr, hop]

theorem decode_unassigned {w : Word} (hr : rsvField w = 0#8) (hop : opField w ≠ 0x01#8)
    (hn : operandlessOf (opField w) = none) : decode w = .illegal .reservedOpcode := by
  simp [decode, hr, hop, hn]

theorem decode_operandless {w : Word} {i : Instr} (hr : rsvField w = 0#8) (hop : opField w ≠ 0x01#8)
    (hi : operandlessOf (opField w) = some i) :
    decode w = if aField w = 0#8 ∧ bField w = 0#8 then .command i else .illegal .operandNotZero := by
  simp [decode, hr, hop, hi]

/-! ## Decoding and encoding -/

theorem operandsOf_operandless {i : Instr} (hi : i.operandless = true) : operandsOf i = (0, 0) := by
  cases i with
  | loadPattern d i => cases hi
  | nop | compute | start | abort | clear | reset => rfl

theorem opcodeOf_operandless_ne {i : Instr} (hi : i.operandless = true) : opcodeOf i ≠ 0x01#8 := by
  cases i with
  | loadPattern d i => cases hi
  | nop | compute | start | abort | clear | reset => decide

theorem decode_encode (i : Instr) : decode (encode i) = .command i := by
  have hr := rsvField_encode i
  by_cases hi : i.operandless = true
  · have hop : operandlessOf (opField (encode i)) = some i :=
      (operandlessOf_eq_some_iff _ i).mpr ⟨hi, opField_encode i⟩
    rw [decode_operandless hr (by simpa using opcodeOf_operandless_ne hi) hop]
    simp [operandsOf_operandless hi]
  · cases i with
    | loadPattern d i =>
      rw [decode_loadPattern hr (opField_encode _), aField_encode, bField_encode]
      rfl
    | nop | compute | start | abort | clear | reset => exact absurd rfl hi

/-- A word that decodes to a command has that command's OP and operands and no bit of RSV. -/
theorem eq_encode_of_decode {w : Word} {i : Instr} (h : decode w = .command i) : w = encode i := by
  by_cases hr : rsvField w = 0#8
  swap
  · simp [decode_reserved hr] at h
  by_cases hop : opField w = 0x01#8
  · rw [decode_loadPattern hr hop] at h
    cases h
    exact word_eq_of_fields (by rw [opField_encode]; exact hop) (by rw [aField_encode]; rfl) (by rw [bField_encode]; rfl)
      (by rw [rsvField_encode]; exact hr)
  cases ho : operandlessOf (opField w) with
  | none => simp [decode_unassigned hr hop ho] at h
  | some j =>
    rw [decode_operandless hr hop ho] at h
    split_ifs at h with hab
    cases h
    obtain ⟨hi, hopc⟩ := (operandlessOf_eq_some_iff _ _).mp ho
    obtain ⟨ha, hb⟩ := hab
    have hz := operandsOf_operandless hi
    exact word_eq_of_fields (by simpa using hopc) (by simpa [hz] using ha) (by simpa [hz] using hb) (by simpa using hr)

theorem decode_eq_command_iff {w : Word} {i : Instr} : decode w = .command i ↔ w = encode i :=
  ⟨eq_encode_of_decode, fun h => h ▸ decode_encode i⟩

/-- The 32 bits of the table are the word itself (assumption log 14). -/
theorem tableWord_toNat (w : Word) : tableWord 32 w.toNat = w := by
  rw [tableWord, Nat.mod_eq_of_lt w.isLt, BitVec.ofNat_toNat, BitVec.setWidth_eq]

theorem decodeTableWord_eq_some_iff (n : Nat) (i : Instr) :
    decodeTableWord 32 n = some i ↔ decode (tableWord 32 n) = .command i := by
  have hlt : n % 2 ^ 32 < 2 ^ 32 := Nat.mod_lt _ (by decide)
  unfold decodeTableWord
  rw [if_pos hlt]
  cases decode (tableWord 32 n) <;> simp

/-- Settles O2: `decode_encode`, which no operand value escapes. -/
theorem decodeOfEncodeIsTheCommand : Obligations.DecodeOfEncodeIsTheCommand := by
  intro i _
  refine ⟨decode_encode i, (decodeTableWord_eq_some_iff _ i).mpr ?_⟩
  rw [tableWord_toNat, decode_encode]

/-- Settles O3: decoding fixes all four fields of the word. -/
theorem eachCommandHasOneWord : Obligations.EachCommandHasOneWord :=
  fun _ _ h => eq_encode_of_decode h

/-! ## The match and mask table -/

/-- The word of each command selects the row of its mnemonic and no other, all commands together. -/
theorem encode_selects_iff (i : Instr) {row : OpcodeRow} (hrow : row ∈ opcodeRows) :
    row.selects (encode i) = true ↔ row.mnemonic = mnemonicOf i := by
  have h : Laws.EncodesItsRow.Statement i := by
    cases i with
    | nop => exact Laws.EncodesItsRow.nop
    | loadPattern d i => exact Laws.EncodesItsRow.loadPattern d i
    | compute => exact Laws.EncodesItsRow.compute
    | start => exact Laws.EncodesItsRow.start
    | abort => exact Laws.EncodesItsRow.abort
    | clear => exact Laws.EncodesItsRow.clear
    | reset => exact Laws.EncodesItsRow.reset
  exact h (by cases i <;> rfl) row hrow

theorem selects_fullMask (m : String) (v w : Word) :
    (OpcodeRow.mk m v 0xFFFFFFFF#32).selects w = true ↔ w = v := by
  have hall : w &&& 0xFFFFFFFF#32 = w := BitVec.and_allOnes
  simp [OpcodeRow.selects, hall]

/-- The mask of LOAD_PATTERN keeps OP and RSV and drops the operands. -/
theorem opField_rsvField_of_mask {w : Word} (h : w &&& 0xFF0000FF#32 = 0x00000001#32) :
    opField w = 0x01#8 ∧ rsvField w = 0#8 := by
  have hand (k n : Nat) := BitVec.extractLsb'_and (x := w) (y := 0xFF0000FF#32) (start := k) (len := n)
  have hop := hand 0 8
  have hr := hand 24 8
  rw [h] at hop hr
  exact ⟨BitVec.and_allOnes.symm.trans hop.symm, BitVec.and_allOnes.symm.trans hr.symm⟩

/-- A row selects nothing but words of commands. -/
theorem exists_encode_of_selects {w : Word} {row : OpcodeRow} (hrow : row ∈ opcodeRows) (h : row.selects w = true) :
    ∃ i, w = encode i := by
  simp only [opcodeRows, List.mem_cons, List.not_mem_nil, or_false] at hrow
  rcases hrow with rfl | rfl | rfl | rfl | rfl | rfl | rfl
  · exact ⟨.nop, (selects_fullMask _ _ w).mp h⟩
  · obtain ⟨hop, hr⟩ := opField_rsvField_of_mask (w := w) (by simpa [OpcodeRow.selects] using h)
    exact ⟨_, eq_encode_of_decode (decode_loadPattern hr hop)⟩
  · exact ⟨.compute, (selects_fullMask _ _ w).mp h⟩
  · exact ⟨.start, (selects_fullMask _ _ w).mp h⟩
  · exact ⟨.abort, (selects_fullMask _ _ w).mp h⟩
  · exact ⟨.clear, (selects_fullMask _ _ w).mp h⟩
  · exact ⟨.reset, (selects_fullMask _ _ w).mp h⟩

theorem selects_iff {w : Word} {row : OpcodeRow} (hrow : row ∈ opcodeRows) :
    row.selects w = true ↔ ∃ i, w = encode i ∧ row.mnemonic = mnemonicOf i := by
  constructor
  · intro h
    obtain ⟨i, rfl⟩ := exists_encode_of_selects hrow h
    exact ⟨i, rfl, (encode_selects_iff i hrow).mp h⟩
  · rintro ⟨i, rfl, hm⟩
    exact (encode_selects_iff i hrow).mpr hm

theorem opcodeRows_mnemonic_inj : ∀ r1 ∈ opcodeRows, ∀ r2 ∈ opcodeRows, r1.mnemonic = r2.mnemonic → r1 = r2 := by
  decide

/-- No command lacks its row. -/
theorem exists_opcodeRow (i : Instr) : ∃ row ∈ opcodeRows, row.mnemonic = mnemonicOf i := by
  cases i <;> simp [opcodeRows, mnemonicOf]

/-- Settles O5: a row selects the words of the commands with its mnemonic (`selects_iff`), and mnemonics name rows. -/
theorem matchAndMaskAgreeWithTheDecoder : Obligations.MatchAndMaskAgreeWithTheDecoder := by
  refine ⟨fun w row hrow => ?_, fun w r1 h1 r2 h2 hs1 hs2 => ?_, fun w i hd => ?_⟩
  · simp only [selects_iff hrow, decode_eq_command_iff, eq_comm]
  · obtain ⟨i, rfl⟩ := exists_encode_of_selects h1 hs1
    have hm1 := (encode_selects_iff i h1).mp hs1
    have hm2 := (encode_selects_iff i h2).mp hs2
    exact opcodeRows_mnemonic_inj r1 h1 r2 h2 (hm1.trans hm2.symm)
  · obtain ⟨row, hrow, hm⟩ := exists_opcodeRow i
    exact ⟨row, hrow, (selects_iff hrow).mpr ⟨i, eq_encode_of_decode hd, hm⟩⟩

/-! ## Illegal words -/

theorem operandlessOf_eq_none_iff (op : Byte) : operandlessOf op = none ↔ op = 0x01#8 ∨ 0x07 ≤ op.toNat := by
  unfold operandlessOf
  split_ifs with h0 h2 h3 h4 h5 h6
  case neg =>
    simp only [← BitVec.toNat_inj, BitVec.toNat_ofNat] at *
    simp only [true_iff]
    omega
  all_goals subst op; decide

/-- OP is that of an operandless command (30_encoding R102, R105). -/
theorem exists_operandlessOf_iff (op : Byte) :
    (∃ i, operandlessOf op = some i) ↔ op = 0x00#8 ∨ (0x02 ≤ op.toNat ∧ op.toNat ≤ 0x06) := by
  rw [← Option.ne_none_iff_exists', ne_eq, operandlessOf_eq_none_iff, ← BitVec.toNat_inj, ← BitVec.toNat_inj]
  simp only [BitVec.toNat_ofNat]
  omega

/-- Bits 23 to 8 are the two operands. -/
theorem operandBits_eq_zero_iff (w : Word) : w.extractLsb' 8 16 = 0#16 ↔ aField w = 0#8 ∧ bField w = 0#8 := by
  have happ : bField w ++ aField w = w.extractLsb' 8 16 :=
    BitVec.extractLsb'_append_extractLsb'_eq_extractLsb' (by decide)
  rw [← happ]
  constructor
  · intro h
    have ha := congrArg (BitVec.extractLsb' 0 8) h
    have hb := congrArg (BitVec.extractLsb' 8 8) h
    rw [BitVec.extractLsb'_append_eq_right] at ha
    rw [BitVec.extractLsb'_append_eq_left] at hb
    exact ⟨ha, hb⟩
  · rintro ⟨ha, hb⟩
    rw [ha, hb]
    rfl

theorem decode_illegal_iff (w : Word) :
    (∃ why, decode w = .illegal why) ↔
      rsvField w ≠ 0#8 ∨ 0x07 ≤ (opField w).toNat ∨
        ((∃ i, operandlessOf (opField w) = some i) ∧ ¬ (aField w = 0#8 ∧ bField w = 0#8)) := by
  by_cases hr : rsvField w = 0#8
  swap
  · simp [decode_reserved hr, hr]
  by_cases hop : opField w = 0x01#8
  · simp [decode_loadPattern hr hop, hr, hop, show operandlessOf 1#8 = none from rfl]
  cases ho : operandlessOf (opField w) with
  | none =>
    have hbig := ((operandlessOf_eq_none_iff _).mp ho).resolve_left hop
    simp [decode_unassigned hr hop ho, hbig]
  | some i =>
    have hsmall : ¬ 0x07 ≤ (opField w).toNat := fun h => by
      simp [(operandlessOf_eq_none_iff _).mpr (.inr h)] at ho
    rw [decode_operandless hr hop ho]
    by_cases hab : aField w = 0#8 ∧ bField w = 0#8 <;> simp [hr, hsmall, hab]

end Sys2Proof

namespace Sys2Proof.Machine

/-- Writing an illegal word to CMD rejects and does nothing else (43_control R229). -/
theorem memWrite_illegal {w : Word} {why : IllegalWord} (hd : decode w = .illegal why) (s : State) :
    memWrite (regOffset .cmd) w s = .next (reject s) := by
  rw [memWrite_offset]
  simp [writeReg, writeCommand, hd]

/-- Every command but NOP shows in the COMPUTING state after reset: one that is not accepted sets REJECTED, and the accepted
ABORT and RESET leave COMPUTING (43_control R220). -/
theorem exec_ne_self_of_ne_nop {i : Instr} (hi : i ≠ .nop) :
    exec i { State.reset with state := .computing } ≠ .next { State.reset with state := .computing } := by
  intro h
  rcases exec_cases h with ⟨ha, ht⟩ | ⟨-, ht⟩
  · have hstate := congrArg State.state ht
    cases i with
    | nop => exact hi rfl
    | loadPattern | compute | start | clear => cases ha
    | abort | reset => cases hstate
  · cases congrArg State.rejected ht

/-- Settles O4: `decode_illegal_iff` in the terms of R105, the write by `memWrite_illegal`, and NOP against the rest by one
COMPUTING state. -/
theorem illegalWordsAreExactlyThese : Obligations.IllegalWordsAreExactlyThese := by
  refine ⟨fun w => ?_, fun w why hd s => memWrite_illegal hd s, fun i => ⟨fun h => ?_, ?_⟩⟩
  · rw [decode_illegal_iff, ← operandBits_eq_zero_iff, exists_operandlessOf_iff]
    rfl
  · by_contra hi
    exact exec_ne_self_of_ne_nop hi (h _)
  · rintro rfl s
    exact exec_eq .nop s

end Sys2Proof.Machine
end

section
/-! The Host: the accesses of the lines of a host program (30_encoding R107 to R109), and what a turn of the Host makes of
them (30_encoding R100, R108; 20_memory R80). -/

namespace Sys2Proof.Machine

/-! ## The lines -/

/-- An operand written as a number below 256 stands where the encoder shifts it. -/
theorem ofNat_shiftLeft_of_byte {n : Nat} (h : n < 256) (k : Nat) :
    BitVec.ofNat 32 (n <<< k) = (BitVec.ofNat 8 n).setWidth 32 <<< k := by
  refine BitVec.eq_of_toNat_eq ?_
  have h8 : n % 2 ^ 8 = n := Nat.mod_eq_of_lt h
  have h32 : n % 2 ^ 32 = n := Nat.mod_eq_of_lt (by omega)
  rw [BitVec.toNat_shiftLeft, BitVec.toNat_setWidth, BitVec.toNat_ofNat, BitVec.toNat_ofNat, h8, h32]

/-- The formula of R108 on operands below 256 is the encoder's word. -/
theorem loadPatternWord_eq_encode {dom idx : Nat} (hd : dom < 256) (hi : idx < 256) :
    loadPatternWord dom idx = encode (.loadPattern (BitVec.ofNat 8 dom) (BitVec.ofNat 8 idx)) := by
  rw [loadPatternWord, BitVec.ofNat_or, BitVec.ofNat_or, ofNat_shiftLeft_of_byte hi, ofNat_shiftLeft_of_byte hd]
  rfl

/-- Settles O6: the word of LOAD_PATTERN by `loadPatternWord_eq_encode`, the register names by the table of offsets; every
other line is its definition. -/
theorem hostLinesExpandToTheirAccesses : Obligations.HostLinesExpandToTheirAccesses := by
  refine ⟨fun dom idx hwf => ?_, fun row hrow => ?_, fun _ => rfl, fun _ => rfl, fun _ => rfl, rfl, rfl, rfl, rfl,
    fun _ _ => ⟨rfl, rfl⟩⟩
  · simp only [HostLine.wellFormed, Bool.and_eq_true, decide_eq_true_eq] at hwf
    obtain ⟨hd, hi⟩ := hwf
    rw [expandLine, loadPatternWord_eq_encode hd hi]
    rfl
  · have hoff : regOffset row.1 = row.2 := by revert row; decide
    exact ⟨by rw [expandLine, hoff], hoff, fun n => by rw [expandLine, hoff]⟩

/-- LO written first, then HI: the register holds the value whatever it held before (20_memory R72). -/
theorem setHighHalf_setLowHalf (a v : DWord) : setHighHalf (setLowHalf a (lowHalf v)) (highHalf v) = v := by
  rw [setHighHalf, lowHalf_setLowHalf, joinHalves_halves]

/-- Two configuration writes in order, while not busy. -/
theorem memWrite_config_twice {r1 r2 : Reg} (h1 : isConfig r1 = true) (h2 : isConfig r2 = true) {s : State}
    (hb : busy s = false) (v1 v2 : Word) :
    ∃ t, memWrite (regOffset r1) v1 s = .next t ∧
      memWrite (regOffset r2) v2 t =
        .next (noteTimingWrite r2 (setConfig r2 v2 (noteTimingWrite r1 (setConfig r1 v1 s)))) := by
  refine ⟨_, memWrite_config_free h1 hb v1, memWrite_config_free h2 ?_ v2⟩
  simpa [busy] using hb

/-- Settles O7: both writes are accepted (`memWrite_config_twice`) and join to the number. -/
theorem wr64WritesBothHalves : Obligations.Wr64WritesBothHalves := by
  intro v s _ hb
  have writes {lo hi : Reg} (hlo : isConfig lo = true) (hhi : isConfig hi = true) :=
    memWrite_config_twice hlo hhi hb (lowHalf (BitVec.ofNat 64 v)) (highHalf (BitVec.ofNat 64 v))
  refine ⟨⟨_, _, rfl, ?_⟩, ⟨_, _, rfl, ?_⟩, fun _ => rfl, by decide⟩
  · obtain ⟨t, ht, hu⟩ := writes (lo := .burstPeriodNsLo) (hi := .burstPeriodNsHi) rfl rfl
    refine ⟨t, _, ht, hu, ?_⟩
    simp [noteTimingWrite, isTiming, setConfig, setHighHalf_setLowHalf]
  · obtain ⟨t, ht, hu⟩ := writes (lo := .minDurationNsLo) (hi := .minDurationNsHi) rfl rfl
    refine ⟨t, _, ht, hu, ?_⟩
    simp [noteTimingWrite, isTiming, setConfig, setHighHalf_setLowHalf]

/-! ## The words of R110 -/

theorem endOpenStream_of_not_streaming {s : State} (h : streaming s = false) : endOpenStream s = s := by
  simp [endOpenStream, h]

/-- An error raised while no stream is open (60_exceptions R256). -/
theorem raiseError_of_idle {s : State} (h : s.state = .idle) (c : Cause) :
    raiseError c s = { s with startPending := false, errCause := c, state := .error } := by
  rw [raiseError, endOpenStream_of_not_streaming (by simp [streaming, h])]

theorem exec_loadPattern_of_idle {s : State} (h : s.state = .idle) (d i : Byte) :
    exec (.loadPattern d i) s = .next (loadPattern d i s) := by
  rw [exec_eq, if_pos ((accepted_loadPattern d i s.state).mpr h)]
  rfl

/-- Settles O1: the fifteen words are evaluated; the two raising ones fail their check of 40_pattern R133. -/
theorem decodesTheWrittenWords : Obligations.DecodesTheWrittenWords := by
  refine ⟨rfl, rfl, rfl, rfl, rfl, rfl, rfl, rfl, rfl, rfl, rfl, rfl, rfl, rfl, rfl, fun s hs => ?_, fun s hs => ?_⟩
  · have hbad : loadPattern 1 5 s = raiseError .cfgBadIndex s := rfl
    rw [exec_loadPattern_of_idle hs, hbad, raiseError_of_idle hs]
  · have hbad : loadPattern 2 1 s = raiseError .cfgBadDomain s := rfl
    rw [exec_loadPattern_of_idle hs, hbad, raiseError_of_idle hs]

/-! ## A turn of the Host -/

/-- The Host's turn with an access left performs that access, both taken off their lists (20_memory R80). -/
theorem step_host {s : State} {op : HostOp} {prog : List HostOp} {turns : List Turn}
    (hs : s.schedule = .host :: turns) (hp : s.hostProgram = op :: prog) :
    step s = performHostOp op prog { s with schedule := turns } := by
  simp [step, runSchedule, hs, takeTurn, hostStep, hp]

/-- A read depends on the block alone, not on the accesses and the turns to come. -/
theorem memReadValue_of_env (addr : Byte) (s : State) (turns : List Turn) (prog : List HostOp) :
    memReadValue addr { s with schedule := turns, hostProgram := prog } = memReadValue addr s := by
  unfold memReadValue
  cases regAt addr with
  | none => rfl
  | some r => cases r <;> rfl

theorem memReadState_of_env (addr : Byte) (s : State) (turns : List Turn) (prog : List HostOp) :
    memReadState addr { s with schedule := turns, hostProgram := prog } =
      { memReadState addr s with schedule := turns, hostProgram := prog } := by
  unfold memReadState
  split
  · rfl
  · cases regAt addr with
    | none => rfl
    | some r => cases r <;> rfl

theorem readAndRecord_of_env (addr : Byte) (s : State) (turns : List Turn) (prog : List HostOp) :
    readAndRecord addr { s with schedule := turns, hostProgram := prog } =
      { memReadState addr s with
        schedule := turns, hostProgram := prog, hostReads := s.hostReads ++ [(addr, memReadValue addr s)] } := by
  rw [readAndRecord, memReadValue_of_env, memReadState_of_env]

theorem step_host_write {s : State} {addr : Byte} {v : Word} {prog : List HostOp} {turns : List Turn}
    (hs : s.schedule = .host :: turns) (hp : s.hostProgram = .write addr v :: prog) :
    step s = memWrite addr v { s with schedule := turns, hostProgram := prog } := step_host hs hp

theorem step_host_read {s : State} {addr : Byte} {prog : List HostOp} {turns : List Turn}
    (hs : s.schedule = .host :: turns) (hp : s.hostProgram = .read addr :: prog) :
    step s = .next { memReadState addr s with
      schedule := turns, hostProgram := prog, hostReads := s.hostReads ++ [(addr, memReadValue addr s)] } := by
  rw [step_host hs hp, ← readAndRecord_of_env]
  rfl

/-- A step from `withFetchWord` writes the table word to CMD and takes turn and access off again. -/
theorem step_withFetchWord (s : State) (w : Nat) :
    step (s.withFetchWord 32 w) = memWrite (regOffset .cmd) (tableWord 32 w) s := step_host_write rfl rfl

/-- Settles O45: `step_host_write` and `step_host_read`, and a word written to CMD by `memWrite_command`. -/
theorem stepRunsTheDecodedCommand : Obligations.StepRunsTheDecodedCommand := by
  refine ⟨fun s w i prog turns hs hp hd _ => ?_, fun s w i hw => ?_, fun s addr v prog turns hs hp => step_host_write hs hp,
    fun s addr prog turns hs hp => step_host_read hs hp⟩
  · rw [step_host_write hs hp]
    exact memWrite_command hd _
  · rw [step_withFetchWord, memWrite_command ((decodeTableWord_eq_some_iff w i).mp hw)]

/-! ## Polling -/

/-- The read of a polling round notes STATUS and changes nothing else (20_memory R76). -/
theorem readStatus_and_record (s : State) (turns : List Turn) (prog : List HostOp) :
    readAndRecord 0x08 { s with schedule := turns, hostProgram := prog } =
      { s with schedule := turns, hostProgram := prog, hostReads := s.hostReads ++ [(0x08, memReadValue 0x08 s)] } := by
  rw [readAndRecord_of_env, show memReadState 0x08 s = s from memReadState_offset .status s]

/-- STATE in the STATUS word the host reads (10_state R24). -/
theorem memReadValue_status_state (s : State) : (memReadValue 0x08 s).extractLsb' 0 2 = runStateCode s.state :=
  (congrArg _ (memReadValue_offset .status s)).trans (statusWord_state s)

/-- The condition of wait_not_busy (30_encoding R108). -/
theorem memReadValue_status_busy_iff (s : State) :
    ((memReadValue 0x08 s).extractLsb' 0 2 = 1 ∨ (memReadValue 0x08 s).extractLsb' 0 2 = 2) ↔ busy s = true := by
  rw [memReadValue_status_state, busy_iff]
  cases s.state <;> decide

/-- The condition of wait_compute (30_encoding R108). -/
theorem memReadValue_status_computing_iff (s : State) :
    (memReadValue 0x08 s).extractLsb' 0 2 = 1 ↔ s.state = .computing := by
  rw [memReadValue_status_state]
  cases s.state <;> decide

/-- Settles O46: a round is one read of STATUS, whose STATE field decides between the head and the rest. -/
theorem pollingRoundsReadStatus : Obligations.PollingRoundsReadStatus := by
  intro s rest turns hs
  refine ⟨fun hp => ?_, fun hp => ?_⟩
  · simp only [memReadValue_status_busy_iff]
    exact (step_host hs hp).trans (congrArg _ (readStatus_and_record s turns _))
  · simp only [memReadValue_status_computing_iff]
    exact (step_host hs hp).trans (congrArg _ (readStatus_and_record s turns _))

end Sys2Proof.Machine
end

section
/-! LOAD_PATTERN (40_pattern R130 to R133): its words, the operands that fail a check, and what it does in each case. -/

namespace Sys2Proof.Machine

/-- The words of LOAD_PATTERN: OP is 0x01, RSV is zero, the operands are fields A and B (30_encoding R103). -/
theorem decode_eq_loadPattern_iff (w : Word) (d i : Byte) :
    decode w = .command (.loadPattern d i) ↔ w &&& 0xFF0000FF = 0x00000001 ∧ d = aField w ∧ i = bField w := by
  constructor
  · intro h
    obtain rfl := decode_eq_command_iff.mp h
    exact ⟨Laws.EncodesItsRow.mask_loadPattern d i, (aField_encode (.loadPattern d i)).symm,
      (bField_encode (.loadPattern d i)).symm⟩
  · rintro ⟨hmask, rfl, rfl⟩
    obtain ⟨hop, hrsv⟩ := opField_rsvField_of_mask hmask
    exact decode_loadPattern hrsv hop

/-- The codes 0 and 1 name a domain, no other does (40_pattern R130). -/
theorem domainOf_eq_none_iff (d : Byte) : domainOf d = none ↔ 2 ≤ d.toNat := by
  unfold domainOf
  split_ifs <;> simp only [true_iff, false_iff] <;> bv_omega

/-- The indices 1 to 4 name a pattern, no other does (40_pattern R130). -/
theorem indexOf_eq_none_iff (i : Byte) : indexOf i = none ↔ i.toNat = 0 ∨ 5 ≤ i.toNat := by
  unfold indexOf
  split_ifs <;> simp only [true_iff, false_iff] <;> bv_omega

/-- A profile of the table is loaded from operands that pass both checks (40_pattern R133). -/
theorem loadPattern_of_valid {d i : Byte} (dom : Domain) (idx : PatternIndex) (hd : domainOf d = some dom)
    (hi : indexOf i = some idx) (s : State) :
    loadPattern d i s =
      { s with
        pwNs := (rom dom idx).pwNs
        priNs := (rom dom idx).priNs
        pulseCount := (rom dom idx).pulseCount
        countsValid := false } := by
  simp [loadPattern, hd, hi]

/-- The domain is checked first: a bad one raises whatever the index (40_pattern R133). -/
theorem loadPattern_of_badDomain {d : Byte} (hd : domainOf d = none) (i : Byte) (s : State) :
    loadPattern d i s = raiseError .cfgBadDomain s := by
  simp [loadPattern, hd]

theorem loadPattern_of_badIndex {d i : Byte} (hd : domainOf d ≠ none) (hi : indexOf i = none) (s : State) :
    loadPattern d i s = raiseError .cfgBadIndex s := by
  obtain ⟨dom, hdom⟩ := Option.ne_none_iff_exists'.mp hd
  simp [loadPattern, hdom, hi]

/-- LOAD_PATTERN is accepted in IDLE alone (43_control R220). -/
theorem exec_loadPattern_of_not_idle {s : State} (h : s.state ≠ .idle) (d i : Byte) :
    exec (.loadPattern d i) s = .next { s with rejected := true } := by
  rw [exec_eq, if_neg (mt (accepted_loadPattern d i s.state).mp h)]
  rfl

/-- Settles O11: the eight rows are those of `rom`, and the conditions on the operands are those of `domainOf` and
`indexOf`. -/
theorem loadPatternLoadsOrRaises : Obligations.LoadPatternLoadsOrRaises := by
  refine ⟨decode_eq_loadPattern_iff, fun s hs => ⟨fun row hrow => ?_, fun d i hd => ?_, fun d i hd hi => ?_⟩,
    fun d i s hs => exec_loadPattern_of_not_idle hs d i⟩
  · rw [exec_loadPattern_of_idle hs]
    simp only [List.mem_cons, List.not_mem_nil, or_false] at hrow
    rcases hrow with rfl | rfl | rfl | rfl | rfl | rfl | rfl | rfl
    · exact congrArg _ (loadPattern_of_valid .etsi .one rfl rfl s)
    · exact congrArg _ (loadPattern_of_valid .etsi .two rfl rfl s)
    · exact congrArg _ (loadPattern_of_valid .etsi .three rfl rfl s)
    · exact congrArg _ (loadPattern_of_valid .etsi .four rfl rfl s)
    · exact congrArg _ (loadPattern_of_valid .fcc .one rfl rfl s)
    · exact congrArg _ (loadPattern_of_valid .fcc .two rfl rfl s)
    · exact congrArg _ (loadPattern_of_valid .fcc .three rfl rfl s)
    · exact congrArg _ (loadPattern_of_valid .fcc .four rfl rfl s)
  · have hbad : domainOf d = none := (domainOf_eq_none_iff d).mpr hd
    rw [exec_loadPattern_of_idle hs, loadPattern_of_badDomain hbad, raiseError_of_idle hs]
  · have hgood : domainOf d ≠ none := mt (domainOf_eq_none_iff d).mp (by omega)
    have hbad : indexOf i = none := (indexOf_eq_none_iff i).mpr hi
    rw [exec_loadPattern_of_idle hs, loadPattern_of_badIndex hgood hbad, raiseError_of_idle hs]

end Sys2Proof.Machine
end

section
/-! The computation of 41_synthesis: what `quantize` answers and when (R151, R161), and the laws of its results. -/

namespace Sys2Proof.Machine

/-! ## The answer of `quantize`, by its conditions -/

/-- The configuration checks of 41_synthesis R162, all passed. -/
def configPasses (fs pw pri n : Nat) (r : QuantResult) : Prop :=
  fs ≠ 0 ∧ n ≠ 0 ∧ pw < pri ∧ r.pulseSamples < r.priSamples

/-- The bounds on the lengths of one burst (41_synthesis R171). -/
def segmentFits (r : QuantResult) : Prop :=
  r.priSamples ≤ 2 ^ 32 - 1 ∧ r.padSamples ≤ 2 ^ 64 - 1 ∧ r.totalBurstSamples ≤ 2 ^ 64 - 1

/-- When the rules give an answer: the condition of an error with every earlier check of 41_synthesis R161 passed, or
every check passed and the counts of R151. -/
def quantizeCondition (fs pw pri n bp md : Nat) : QuantOutcome → Prop
  | .error .cfgRateZero => fs = 0
  | .error .cfgCountZero => fs ≠ 0 ∧ n = 0
  | .error .cfgPwGePri => fs ≠ 0 ∧ n ≠ 0 ∧ pri ≤ pw
  | .error .cfgNoFit =>
    let r := computeCounts fs pw pri n bp md
    fs ≠ 0 ∧ n ≠ 0 ∧ pw < pri ∧ r.priSamples ≤ r.pulseSamples
  | .error .ovfSegment =>
    let r := computeCounts fs pw pri n bp md
    configPasses fs pw pri n r ∧ ¬ segmentFits r
  | .error .ovfTotal =>
    let r := computeCounts fs pw pri n bp md
    configPasses fs pw pri n r ∧ segmentFits r ∧ r.totalSamples > 2 ^ 63 - 1
  | .error _ => False
  | .result r' =>
    let r := computeCounts fs pw pri n bp md
    configPasses fs pw pri n r ∧ segmentFits r ∧ r.totalSamples ≤ 2 ^ 63 - 1 ∧ r' = r

theorem segmentFits_iff (r : QuantResult) :
    segmentFits r ↔
      ¬ (r.priSamples > 2 ^ 32 - 1 ∨ r.padSamples > 2 ^ 64 - 1 ∨ r.totalBurstSamples > 2 ^ 64 - 1) := by
  unfold segmentFits
  omega

/-- The checks in the order `quantize` makes them. -/
theorem quantizeCondition_quantize (fs pw pri n bp md : Nat) :
    quantizeCondition fs pw pri n bp md (quantize fs pw pri n bp md) := by
  simp only [quantize]
  split_ifs with hfs hn hpw hps hfit htot
  · exact hfs
  · exact ⟨hfs, hn⟩
  · exact ⟨hfs, hn, hpw⟩
  · exact ⟨hfs, hn, not_le.mp hpw, hps⟩
  all_goals have hcfg : configPasses fs pw pri n (computeCounts fs pw pri n bp md) :=
    ⟨hfs, hn, not_le.mp hpw, not_le.mp hps⟩
  · exact ⟨hcfg, fun h => (segmentFits_iff _).mp h hfit⟩
  · exact ⟨hcfg, (segmentFits_iff _).mpr hfit, htot⟩
  · exact ⟨hcfg, (segmentFits_iff _).mpr hfit, not_lt.mp htot, rfl⟩

theorem quantize_of_condition {fs pw pri n bp md : Nat} {o : QuantOutcome}
    (h : quantizeCondition fs pw pri n bp md o) : quantize fs pw pri n bp md = o := by
  simp only [quantize]
  cases o with
  | result r =>
    obtain ⟨⟨hfs, hn, hpw, hps⟩, hfit, htot, rfl⟩ := h
    rw [if_neg hfs, if_neg hn, if_neg hpw.not_ge, if_neg hps.not_ge,
      if_neg ((segmentFits_iff _).mp hfit), if_neg htot.not_gt]
  | error c =>
    cases c with
    | cfgRateZero => exact if_pos h
    | cfgCountZero =>
      obtain ⟨hfs, hn⟩ := h
      rw [if_neg hfs, if_pos hn]
    | cfgPwGePri =>
      obtain ⟨hfs, hn, hpw⟩ := h
      rw [if_neg hfs, if_neg hn, if_pos hpw]
    | cfgNoFit =>
      obtain ⟨hfs, hn, hpw, hps⟩ := h
      rw [if_neg hfs, if_neg hn, if_neg hpw.not_ge, if_pos hps]
    | ovfSegment =>
      obtain ⟨⟨hfs, hn, hpw, hps⟩, hfit⟩ := h
      rw [if_neg hfs, if_neg hn, if_neg hpw.not_ge, if_neg hps.not_ge,
        if_pos (not_not.mp (mt (segmentFits_iff _).mpr hfit))]
    | ovfTotal =>
      obtain ⟨⟨hfs, hn, hpw, hps⟩, hfit, htot⟩ := h
      rw [if_neg hfs, if_neg hn, if_neg hpw.not_ge, if_neg hps.not_ge,
        if_neg ((segmentFits_iff _).mp hfit), if_pos htot]
    | none | cfgBadDomain | cfgBadIndex | ioSink | selfcheck => exact h.elim

theorem quantize_eq_iff {fs pw pri n bp md : Nat} {o : QuantOutcome} :
    quantize fs pw pri n bp md = o ↔ quantizeCondition fs pw pri n bp md o :=
  ⟨fun h => h ▸ quantizeCondition_quantize fs pw pri n bp md, quantize_of_condition⟩

/-- A longer time never rounds to fewer samples (00_scope R10). -/
theorem rhu_mono_left {a a' : Nat} (h : a ≤ a') (b : Nat) : rhu a b ≤ rhu a' b :=
  Nat.div_le_div_right (Nat.add_le_add_right (Nat.mul_le_mul_left 2 h) b)

/-- Settles O19: `quantize_eq_iff` at each answer; a misfit in time is one in samples because `rhu` is monotone. -/
theorem quantizeChecksInOrder : Obligations.QuantizeChecksInOrder := by
  intro fs pw pri n bp md ps rs tbt ecy pads tbs bc q cfg fits
  exact ⟨fun h => rhu_mono_left (Nat.mul_le_mul_right fs h) _, quantize_eq_iff, quantize_eq_iff, quantize_eq_iff,
    quantize_eq_iff, quantize_eq_iff, quantize_eq_iff, fun _ => quantize_eq_iff⟩

/-! ## The laws of a successful computation -/

/-- Either one cycle or whole cycles within the minimum duration (41_synthesis R169). -/
theorem max_one_div_mul_le (md c : Nat) : max 1 (md / c) * c ≤ max md c :=
  calc max 1 (md / c) * c
      = max (1 * c) (md / c * c) := (max_mul_mul_right 1 (md / c) c).symm
    _ ≤ max c md := max_le_max (Nat.one_mul c).le (Nat.div_mul_le_self md c)
    _ = max md c := max_comm c md

/-- One cycle more than the burst count exceeds the minimum duration (41_synthesis R177). -/
theorem lt_max_one_div_succ_mul (md : Nat) {c : Nat} (hc : 0 < c) : md < (max 1 (md / c) + 1) * c :=
  (Nat.div_lt_iff_lt_mul hc).mp (Nat.lt_succ_of_le (le_max_right 1 _))

section
variable {fs pw pri n bp md : Nat} {r : QuantResult} (h : quantize fs pw pri n bp md = .result r)
include h

theorem eq_computeCounts_of_result : r = computeCounts fs pw pri n bp md := (quantize_result h).1

/-- An interval takes time and there is one, so a cycle takes time (41_synthesis R162, R165). -/
theorem effectiveCycle_pos_of_result : 0 < r.effectiveCycle := by
  obtain ⟨⟨-, hn, hpw, -⟩, -, -, rfl⟩ := quantize_eq_iff.mp h
  exact lt_max_of_lt_right (Nat.mul_pos (Nat.pos_of_ne_zero hn) (Nat.zero_lt_of_lt hpw))

theorem burstCount_pos_of_result : 1 ≤ r.burstCount := by
  obtain rfl := eq_computeCounts_of_result h
  exact le_max_left 1 _

/-- A burst holds the samples of an interval, one at least, since the pulse fits in it (41_synthesis R162, R168). -/
theorem totalBurstSamples_pos_of_result : 1 ≤ r.totalBurstSamples := by
  obtain ⟨⟨-, hn, -, hps⟩, -, -, rfl⟩ := quantize_eq_iff.mp h
  exact Nat.add_pos_left (Nat.mul_pos (Nat.pos_of_ne_zero hn) (Nat.zero_lt_of_lt hps)) _

theorem totalSamples_eq_of_result : r.totalSamples = r.totalBurstSamples * r.burstCount := by
  obtain rfl := eq_computeCounts_of_result h
  rfl

/-- The total bounds the burst count, which has no check of its own (41_synthesis R169, R171). -/
theorem burstCount_le_totalSamples_of_result : r.burstCount ≤ r.totalSamples := by
  rw [totalSamples_eq_of_result h]
  exact Nat.le_mul_of_pos_left _ (totalBurstSamples_pos_of_result h)

end

/-- Settles O20: the two laws on the minimum duration are those of `max 1 (md / c)`; the others are read off
`computeCounts` or are checks of R162. -/
theorem successfulComputationLaws : Obligations.SuccessfulComputationLaws := by
  intro fs pw pri n bp md r h
  have hbc : 1 ≤ r.burstCount := burstCount_pos_of_result h
  have htot : 1 ≤ r.totalSamples := hbc.trans (burstCount_le_totalSamples_of_result h)
  have hcycle : 0 < r.effectiveCycle := effectiveCycle_pos_of_result h
  obtain ⟨rfl, -, hps, -⟩ := quantize_result h
  exact ⟨Nat.zero_le _, le_max_right _ _, hps, hbc, max_one_div_mul_le md _,
    fun _ => lt_max_one_div_succ_mul md hcycle, rfl, htot⟩

/-! ## The widths of the results -/

/-- The times of a computation fit 64 bits, the width of their registers (41_synthesis R164, R165). -/
theorem times_fit_of_result {s : State} {r : QuantResult} (h : quantizeState s = .result r) :
    r.totalBurstTime < 2 ^ 64 ∧ r.effectiveCycle < 2 ^ 64 ∧ r.padTime < 2 ^ 64 := by
  obtain rfl := eq_computeCounts_of_result h
  have htbt : s.pulseCount.toNat * s.priNs.toNat < 2 ^ 64 :=
    calc s.pulseCount.toNat * s.priNs.toNat
        < 2 ^ 32 * 2 ^ 32 := Nat.mul_lt_mul'' s.pulseCount.isLt s.priNs.isLt
      _ = 2 ^ 64 := by norm_num
  have hecy : max s.burstPeriodNs.toNat (s.pulseCount.toNat * s.priNs.toNat) < 2 ^ 64 :=
    max_lt s.burstPeriodNs.isLt htbt
  exact ⟨htbt, hecy, (Nat.sub_le _ _).trans_lt hecy⟩

/-- Settles O21: the samples by the checks of R162 and R171, the times by the widths of the registers they come from. -/
theorem resultsFitTheirRegisters : Obligations.ResultsFitTheirRegisters := by
  intro s r h
  have hbc : r.burstCount ≤ r.totalSamples := burstCount_le_totalSamples_of_result h
  obtain ⟨htbt, hecy, hpad⟩ := times_fit_of_result h
  obtain ⟨⟨-, -, -, hps⟩, ⟨hrs, hpads, htbs⟩, htot, hr⟩ := quantize_eq_iff.mp h
  rw [← hr] at hps hrs hpads htbs htot
  simp only [storeCounts, BitVec.toNat_ofNat]
  omega

end Sys2Proof.Machine
end

section
/-! COMPUTE, START and the Core step (41_synthesis R160, R175, R176). -/

namespace Sys2Proof.Machine

/-! ## The Core step, by the answer of the computation -/

theorem streaming_of_computing {s : State} (h : s.state = .computing) : streaming s = s.startPending := by
  simp [streaming, h]

/-- The Core step outside COMPUTING is no step (41_synthesis R160). -/
theorem coreStep_of_not_computing {s : State} (h : s.state ≠ .computing) : coreStep s = s := if_neg h

/-- A failed computation raises its error; a START has begun a stream, which the abort marker ends (42_emission R197). -/
theorem coreStep_of_error {s : State} {c : Cause} (hs : s.state = .computing) (hq : quantizeState s = .error c) :
    coreStep s = { s with
      startPending := false
      errCause := c
      state := .error
      sinkRecord := s.sinkRecord ++ (if s.startPending then [.abort] else []) } := by
  have hraise : coreStep s = raiseError c s := by simp [coreStep, hs, hq]
  rw [hraise, raiseError_frame, endOpenStream_sinkRecord, streaming_of_computing hs]

theorem coreStep_of_result {s : State} {r : QuantResult} (hs : s.state = .computing) (hq : quantizeState s = .result r) :
    coreStep s = { s with
      counts := storeCounts r
      countsValid := true
      startPending := false
      state := if s.startPending then .emitting else .idle } := by
  cases hp : s.startPending with
  | true => simp [coreStep, hs, hq, hp]
  | false => simp [coreStep, hs, hq, hp]

/-- The Core's turn takes the Core step (20_memory R82). -/
theorem step_core {s : State} {turns : List Turn} (h : s.schedule = .core :: turns) :
    step s = .next (coreStep (countRace { s with schedule := turns })) := by
  simp [step, runSchedule, h, takeTurn]

/-- Settles O22: an equation of the Core step per answer of the computation, and its turn by `step_core`. -/
theorem coreStepWritesAllOrRaises : Obligations.CoreStepWritesAllOrRaises :=
  ⟨fun _ => coreStep_of_not_computing, fun _ _ => coreStep_of_error, fun _ _ => coreStep_of_result,
    fun _ _ => step_core⟩

/-! ## COMPUTE -/

theorem exec_of_accepted {i : Instr} {s : State} (h : accepted i s.state = true) : exec i s = .next (effectOf i s) := by
  rw [exec_eq, if_pos h]

theorem exec_of_not_accepted {i : Instr} {s : State} (h : ¬ accepted i s.state = true) :
    exec i s = .next { s with rejected := true } := by
  rw [exec_eq, if_neg h, reject]

/-- The computation of a COMPUTE ends in IDLE or ERROR and puts nothing on the stream (41_synthesis R175). -/
theorem coreStep_without_start {s : State} (hs : s.state = .computing) (hp : s.startPending = false) :
    (coreStep s).sinkRecord = s.sinkRecord ∧ (coreStep s).state ≠ .emitting := by
  cases hq : quantizeState s with
  | error c => simp [coreStep_of_error hs hq, hp]
  | result r => simp [coreStep_of_result hs hq, hp]

/-- Settles O12: the effect of an accepted COMPUTE is a COMPUTING state without START_PENDING, so that the Core step after
it emits nothing (`coreStep_without_start`). -/
theorem computeEntersComputing : Obligations.ComputeEntersComputing := by
  refine ⟨fun w => decode_eq_command_iff, fun s hs => ?_, fun s hs => ?_, ?_⟩
  · refine ⟨effectOf .compute s, exec_of_accepted ((accepted_compute _).mpr hs), rfl, ?_⟩
    obtain ⟨hrecord, hstate⟩ := coreStep_without_start (s := effectOf .compute s) rfl rfl
    refine ⟨hrecord, hstate, coreStep_pos _, coreStep_done _, coreStep_aborted _, coreStep_rejected _, ?_, ?_⟩
    · intro c hc
      rw [coreStep_of_error (s := effectOf .compute s) rfl hc]
      exact ⟨rfl, rfl⟩
    · intro r hr
      rw [coreStep_of_result (s := effectOf .compute s) rfl hr]
      exact ⟨rfl, rfl, rfl⟩
  · exact exec_of_not_accepted (mt (accepted_compute _).mp hs)
  · exact ⟨computeCounts 10000000 1000 1428000 18 (10 ^ 9) (10 ^ 9), by decide, by decide, by decide, by decide⟩

/-! ## START -/

/-- Settles O13: the effect of an accepted START is a COMPUTING state with START_PENDING, where the Core step by
`coreStep_of_error` and `coreStep_of_result` ends the stream it began or enters EMITTING. -/
theorem startEntersComputing : Obligations.StartEntersComputing := by
  refine ⟨fun w => decode_eq_command_iff, fun s hs => ?_, fun s hs => ?_⟩
  · refine ⟨effectOf .start s, exec_of_accepted ((accepted_start _).mpr hs), rfl, fun c hc => ?_, fun r hr => ?_⟩
    · exact coreStep_of_error (s := effectOf .start s) rfl hc
    · exact coreStep_of_result (s := effectOf .start s) rfl hr
  · exact exec_of_not_accepted (mt (accepted_start _).mp hs)

end Sys2Proof.Machine
end

section
/-! From START to the last byte: the rest of an emission to a sink that accepts every byte (42_emission R192, R194,
R199), and the run of a whole START (41_synthesis R160, R176). -/

namespace Sys2Proof.Machine

/-! ## The emission the invariant admits -/

/-- While EMITTING the results are those of the configuration (42_emission R190). -/
theorem BlockInv.result_of_emitting {s : State} (h : BlockInv s) (hs : s.state = .emitting) :
    ∃ r, quantizeState s = .result r ∧ s.counts = storeCounts r :=
  h.valid (h.emitting hs).1

theorem byteDefined_iff (w : Waveform) (p : Nat) :
    byteDefined w p = true ↔ 1 ≤ w.burstSamples ∧ p < 2 * w.totalSamples ∧ w.totalSamples < 2 ^ 63 := by
  simp only [byteDefined, Bool.and_eq_true, decide_eq_true_eq, and_assoc]

theorem isLast_iff (w : Waveform) (p : Nat) : isLast w p = true ↔ p + 1 = 2 * w.totalSamples := decide_eq_true_iff

/-- The Emitter step always has a byte to deliver: `emissionUndefined` is raised in no state the invariant admits
(42_emission R190, 41_synthesis R168, R170). -/
theorem BlockInv.byteDefined_of_emitting {s : State} (h : BlockInv s) (hs : s.state = .emitting) :
    byteDefined (waveform s) s.pos.toNat = true := by
  obtain ⟨r, hr, hcounts⟩ := h.result_of_emitting hs
  obtain ⟨-, hpos⟩ := h.emitting hs
  obtain ⟨-, -, -, htbs, -, htot, -, -, -, hbytes⟩ := resultsFitTheirRegisters s r hr
  have hburst : 1 ≤ r.totalBurstSamples := totalBurstSamples_pos_of_result hr
  simp only [byteDefined_iff, waveform]
  rw [hcounts] at hpos ⊢
  omega

/-- What is left of the complete stream at `p` is the byte at `p` and what is left after it. -/
theorem completeStream_drop {w : Waveform} {p : Nat} (h : p < 2 * w.totalSamples) :
    (completeStream w).drop p = .byte (streamByte w p) (isLast w p) :: (completeStream w).drop (p + 1) := by
  have hlen : p < (completeStream w).length := by simpa [completeStream] using h
  rw [List.drop_eq_getElem_cons hlen]
  simp [completeStream]

/-- In a state the invariant admits the Emitter step delivers a byte, and completes the emission with the last one
(42_emission R192, R194). -/
theorem emitterStep_of_blockInv {s : State} (h : BlockInv s) (hs : s.state = .emitting) :
    emitterStep s = .next (if s.pos.toNat + 1 = 2 * s.counts.totalSamples.toNat then complete (deliverByte s)
      else deliverByte s) := by
  rw [emitterStep, if_pos hs, if_pos (h.byteDefined_of_emitting hs)]
  simp only [isLast_iff]
  rfl

/-- The sink's turn takes the Emitter step (20_memory R82). -/
theorem step_sinkAccept {s : State} {turns : List Turn} (h : s.schedule = .sinkAccept :: turns) :
    step s = emitterStep (countRace { s with schedule := turns }) := by
  simp [step, runSchedule, h, takeTurn]

/-! ## A sink that accepts every byte -/

/-- What an acceptance of the byte at `pos` makes of the state, completion left out (42_emission R192). -/
def acceptByte (turns : List Turn) (s : State) : State := deliverByte (countRace { s with schedule := turns })

/-- The state when the sink has accepted every byte left, and the turns left then (42_emission R194, R199). -/
def afterEmission (rest : List Turn) (s : State) : State :=
  { s with
    state := .idle
    done := true
    pos := BitVec.ofNat 64 (2 * s.counts.totalSamples.toNat)
    sinkRecord := s.sinkRecord ++ (completeStream (waveform s)).drop s.pos.toNat
    schedule := rest
    raceStep := s.raceStep + (2 * s.counts.totalSamples.toNat - s.pos.toNat) }

theorem step_acceptByte {s : State} {turns : List Turn} (h : BlockInv s) (hs : s.state = .emitting)
    (hsched : s.schedule = .sinkAccept :: turns) :
    step s = .next (if s.pos.toNat + 1 = 2 * s.counts.totalSamples.toNat then complete (acceptByte turns s)
      else acceptByte turns s) :=
  (step_sinkAccept hsched).trans (emitterStep_of_blockInv h.of_unread hs)

theorem acceptByte_pos {s : State} (h : BlockInv s) (hs : s.state = .emitting) (turns : List Turn) :
    (acceptByte turns s).pos.toNat = s.pos.toNat + 1 :=
  pos_succ_toNat (h.byteDefined_of_emitting hs)

/-- A byte accepted is one byte less to accept, and the emission ends in the same state. -/
theorem afterEmission_acceptByte {s : State} (h : BlockInv s) (hs : s.state = .emitting) (rest turns : List Turn) :
    afterEmission rest (acceptByte turns s) = afterEmission rest s := by
  obtain ⟨-, hpos⟩ := h.emitting hs
  have hrecord : (acceptByte turns s).sinkRecord ++ (completeStream (waveform s)).drop (s.pos.toNat + 1) =
      s.sinkRecord ++ (completeStream (waveform s)).drop s.pos.toNat := by
    rw [completeStream_drop (w := waveform s) hpos]
    exact List.append_assoc ..
  have hrace : (s.raceStep + 1) + (2 * s.counts.totalSamples.toNat - (s.pos.toNat + 1)) =
      s.raceStep + (2 * s.counts.totalSamples.toNat - s.pos.toNat) := by omega
  simp only [afterEmission, acceptByte_pos h hs]
  congr 1 -- the record and the counter are the fields that differ, equal by `hrecord` and `hrace`

/-- With no byte left completion alone is to come. -/
theorem complete_eq_afterEmission {s : State} (hpos : s.pos.toNat = 2 * s.counts.totalSamples.toNat) :
    complete s = afterEmission s.schedule s := by
  have hstream : (completeStream (waveform s)).drop s.pos.toNat = [] :=
    List.drop_eq_nil_iff.mpr (by simp [completeStream, waveform, hpos])
  simp [complete, afterEmission, hstream, ← hpos]

/-- A sink that accepts every byte receives the rest of the stream, byte for byte, and the emission completes; by
induction on the bytes left. -/
theorem run_accepted_emission {k : Nat} {s : State} {rest : List Turn} (h : BlockInv s) (hs : s.state = .emitting)
    (hk : s.pos.toNat + k = 2 * s.counts.totalSamples.toNat)
    (hsched : s.schedule = List.replicate k Turn.sinkAccept ++ rest) :
    core.run k s = .next (afterEmission rest s) := by
  induction k generalizing s with
  | zero =>
    obtain ⟨-, hpos⟩ := h.emitting hs
    omega
  | succ k ih =>
    have hstep := step_acceptByte h hs hsched
    split_ifs at hstep with hend
    · obtain rfl : k = 0 := by omega
      rw [run_succ hstep, run_zero, complete_eq_afterEmission ((acceptByte_pos h hs _).trans hend)]
      exact congrArg _ (afterEmission_acceptByte h hs rest _)
    · have hpos := acceptByte_pos h hs (List.replicate k Turn.sinkAccept ++ rest)
      have hleft : (acceptByte (List.replicate k Turn.sinkAccept ++ rest) s).pos.toNat + k =
          2 * s.counts.totalSamples.toNat := by omega
      rw [run_succ hstep, ih (everyStepKeepsTheBlockInvariant _ _ h hstep) hs hleft rfl]
      exact congrArg _ (afterEmission_acceptByte h hs rest _)

/-! ## A whole START -/

/-- The host's turn performs a START in IDLE (30_encoding R100, 41_synthesis R176). -/
theorem step_start {s : State} {prog : List HostOp} {turns : List Turn} (hs : s.state = .idle)
    (hprog : s.hostProgram = .write 0x04 0x00000003 :: prog) (hsched : s.schedule = .host :: turns) :
    step s = .next (effectOf .start { s with schedule := turns, hostProgram := prog }) := by
  rw [step_host_write hsched hprog]
  exact (memWrite_command (decode_encode .start) _).trans (exec_of_accepted ((accepted_start s.state).mpr hs))

/-- What the Core step of a START whose computation succeeds leaves to the Emitter (41_synthesis R160). -/
def startedEmission (r : QuantResult) (prog : List HostOp) (turns : List Turn) (s : State) : State :=
  { s with
    hostProgram := prog
    schedule := turns
    startPending := false
    countsValid := true
    done := false
    aborted := false
    counts := storeCounts r
    pos := 0
    state := .emitting
    raceStep := s.raceStep + 1 }

/-- The Core's turn after that of a START enters EMITTING (41_synthesis R160). -/
theorem step_core_after_start {s : State} {r : QuantResult} (hq : quantizeState s = .result r) (prog : List HostOp)
    (turns : List Turn) :
    step (effectOf .start { s with schedule := .core :: turns, hostProgram := prog }) =
      .next (startedEmission r prog turns s) :=
  (step_core rfl).trans (congrArg _ (coreStep_of_result rfl hq))

/-- The results in the registers are exact, so the waveform is that of the results (41_synthesis R164 to R171). -/
theorem waveform_startedEmission {s : State} {r : QuantResult} (hq : quantizeState s = .result r) (prog : List HostOp)
    (turns : List Turn) :
    waveform (startedEmission r prog turns s) =
      { pulses := s.pulseCount.toNat, pulseSamples := r.pulseSamples, priSamples := r.priSamples,
        burstSamples := r.totalBurstSamples, totalSamples := r.totalSamples, on := s.onLevel } := by
  obtain ⟨hps, hrs, -, htbs, -, htot, -⟩ := resultsFitTheirRegisters s r hq
  simp [waveform, startedEmission, hps, hrs, htbs, htot]

/-- Settles O34: the host's turn, the Core's turn, and `run_accepted_emission` from the first byte on. -/
theorem endToEndStart : Obligations.EndToEndStart := by
  intro s r prog rest hinv hs hq hprog hsched
  have htot : (storeCounts r).totalSamples.toNat = r.totalSamples := by
    obtain ⟨-, -, -, -, -, htot, -⟩ := resultsFitTheirRegisters s r hq
    exact htot
  have hstart := step_start hs hprog hsched
  have hcore := step_core_after_start hq prog (List.replicate (2 * r.totalSamples) Turn.sinkAccept ++ rest)
  have hinv' := everyStepKeepsTheBlockInvariant _ _ (everyStepKeepsTheBlockInvariant _ _ hinv hstart) hcore
  rw [run_succ hstart, run_succ hcore, run_accepted_emission hinv' rfl (by simp [startedEmission, htot]) rfl]
  simp only [afterEmission, waveform_startedEmission hq]
  simp [startedEmission, htot, hs, Nat.add_assoc, Nat.add_comm 1]

end Sys2Proof.Machine
end

section
/-! The stream and its terminators (42_emission R197): what each update of a step does to the sink's record and to the
stream that is open, and that no step stops (R190). -/

namespace Sys2Proof.Machine

/-! ## The events of a step -/

/-- One turn comes next. -/
theorem nextTurnIs_unique {s : State} {a b : Turn} (ha : nextTurnIs s a) (hb : nextTurnIs s b) : a = b := by
  obtain ⟨_, ha⟩ := ha
  obtain ⟨_, hb⟩ := hb
  rw [ha] at hb
  exact (List.cons.inj hb).1

theorem nextIsCommand.host {s : State} {i : Instr} (h : nextIsCommand s i) : nextTurnIs s .host := by
  obtain ⟨_, ⟨hhost, -⟩, -⟩ := h
  exact hhost

theorem nextIsCommand.not_sinkAccept {s : State} {i : Instr} (h : nextIsCommand s i) : ¬ nextTurnIs s .sinkAccept :=
  fun ha => by cases nextTurnIs_unique h.host ha

theorem nextIsCore.not_sinkAccept {s : State} (h : nextIsCore s) : ¬ nextTurnIs s .sinkAccept := by
  rintro ⟨turns, ha⟩
  rcases h with hnil | hcore
  · simp [hnil] at ha
  · cases nextTurnIs_unique hcore ⟨turns, ha⟩

/-! ## No step stops -/

/-- The Emitter's is the only turn that could stop, and the invariant rules that out. -/
theorem takeTurn_next {s : State} (h : BlockInv s) (turn : Turn) : ∃ t, takeTurn turn s = .next t := by
  cases turn with
  | host => exact hostStep_next s
  | core | sinkError | hardReset => exact ⟨_, rfl⟩
  | sinkAccept =>
    by_cases hs : s.state = .emitting
    · exact ⟨_, emitterStep_of_blockInv (s := countRace s) h.of_unread hs⟩
    · exact ⟨countRace s, if_neg hs⟩

/-- Settles O51: the turn at the head of the schedule, or the idle turn. -/
theorem noStepStops : Obligations.NoStepStops := by
  intro s h
  unfold step runSchedule
  cases hs : s.schedule with
  | cons turn turns => exact takeTurn_next h.of_unread turn
  | nil =>
    by_cases hc : s.state = .computing
    · exact ⟨coreStep (countRace s), if_pos hc⟩
    · exact ⟨s, if_neg hc⟩

/-! ## The updates -/

theorem sameBlock_streaming {s u : State} (h : sameBlock s u) : streaming u = streaming s := by
  obtain ⟨_, _, _, rfl⟩ := h; rfl

theorem streaming_of_not_busy {s : State} (h : busy s = false) : streaming s = false := by
  refine Bool.eq_false_iff.mpr fun ht => ?_
  rcases (streaming_iff s).mp ht with hs | ⟨hs, -⟩ <;> simp [busy, hs] at h

/-- An update that accepts no byte and begins no stream: it puts nothing on the stream and leaves it open or not as it
was, or it ends an open stream with the abort marker. -/
def keepsOrAborts (s t : State) : Prop :=
  (t.sinkRecord = s.sinkRecord ∧ streaming t = streaming s) ∨
  (streaming s = true ∧ streaming t = false ∧ t.sinkRecord = s.sinkRecord ++ [.abort])

theorem keepsOrAborts.refl (s : State) : keepsOrAborts s s := .inl ⟨rfl, rfl⟩

/-- The abort marker goes out exactly when a stream is open (42_emission R197). -/
theorem keepsOrAborts.of_endOpenStream {s t : State} (hrec : t.sinkRecord = (endOpenStream s).sinkRecord)
    (ht : streaming t = false) : keepsOrAborts s t := by
  rw [endOpenStream_sinkRecord] at hrec
  cases hs : streaming s with
  | true => exact .inr ⟨hs, ht, by simpa [hs] using hrec⟩
  | false => exact .inl ⟨by simpa [hs] using hrec, ht.trans hs.symm⟩

theorem raiseError_keepsOrAborts (c : Cause) (s : State) : keepsOrAborts s (raiseError c s) :=
  .of_endOpenStream rfl (streaming_of_not_busy (by simp [busy]))

theorem abortEffect_keepsOrAborts (s : State) : keepsOrAborts s (abortEffect s) := by
  rcases abortEffect_cases s with ⟨-, h⟩ | ⟨-, h⟩ | ⟨-, h⟩ <;> rw [h]
  · exact .refl s
  · exact .of_endOpenStream rfl rfl
  · exact .of_endOpenStream rfl rfl

/-- No command but START begins a stream. -/
theorem effectOf_keepsOrAborts {i : Instr} (hi : i ≠ .start) {s : State} (ha : accepted i s.state = true) :
    keepsOrAborts s (effectOf i s) := by
  cases i with
  | nop => exact .refl s
  | start => exact absurd rfl hi
  | abort => exact abortEffect_keepsOrAborts s
  | reset => exact .of_endOpenStream rfl rfl
  | compute =>
    have hs := (accepted_compute s.state).mp ha
    exact .inl ⟨rfl, (streaming_of_not_busy (by simp [busy, hs])).symm⟩
  | clear =>
    have hb : busy s = false := by rcases (accepted_clear s.state).mp ha with hs | hs <;> simp [busy, hs]
    refine .inl ⟨rfl, (streaming_of_not_busy ?_).trans (streaming_of_not_busy hb).symm⟩
    rcases (accepted_clear s.state).mp ha with hs | hs <;> simp [effectOf, busy, hs]
  | loadPattern d i =>
    simp only [effectOf]
    rcases loadPattern_cases d i s with ⟨-, h⟩ | ⟨_, -, -, h⟩ | ⟨_, _, -, -, h⟩ <;> rw [h]
    · exact raiseError_keepsOrAborts _ s
    · exact raiseError_keepsOrAborts _ s
    · exact .inl ⟨rfl, rfl⟩

/-- The stream of a START stays open into EMITTING; a computation that fails ends it (41_synthesis R160). -/
theorem coreStep_keepsOrAborts (s : State) : keepsOrAborts s (coreStep s) := by
  rcases coreStep_cases s with ⟨-, h⟩ | ⟨-, c, -, h⟩ | ⟨hs, hp, r, -, h⟩ | ⟨hs, hp, r, -, h⟩ <;> rw [h]
  · exact .refl s
  · exact raiseError_keepsOrAborts c s
  · exact .inl ⟨rfl, ((streaming_of_computing hs).trans hp).symm⟩
  · exact .inl ⟨rfl, ((streaming_of_computing hs).trans hp).symm⟩

theorem sinkErrorStep_keepsOrAborts (s : State) : keepsOrAborts s (sinkErrorStep s) := by
  rcases sinkErrorStep_cases s with ⟨-, h⟩ | ⟨-, h⟩ <;> rw [h]
  · exact raiseError_keepsOrAborts _ s
  · exact .refl s

/-- An acceptance puts one byte on the stream and closes it with the byte marked last (42_emission R192, R194). -/
theorem emitterStep_stream_cases {s t : State} (h : emitterStep s = .next t) :
    t = s ∨
    (streaming s = true ∧ ∃ b last, t.sinkRecord = s.sinkRecord ++ [.byte b last] ∧ streaming t = !last) := by
  rcases emitterStep_cases h with ⟨-, rfl⟩ | ⟨hs, -, hl, rfl⟩ | ⟨hs, -, hl, rfl⟩
  · exact .inl rfl
  · exact .inr ⟨(streaming_iff s).mpr (.inl hs), streamByte (waveform s) s.pos.toNat, true, by simp [hl], rfl⟩
  · exact .inr ⟨(streaming_iff s).mpr (.inl hs), streamByte (waveform s) s.pos.toNat, false, by simp [hl],
      (streaming_iff _).mpr (.inl hs)⟩

/-! ## One step -/

/-- Everything a step can do to the stream (42_emission R197). -/
inductive StreamStep (s t : State) : Prop where
  | kept (record : t.sinkRecord = s.sinkRecord) (still : streaming t = streaming s)
  | begun (e : nextIsCommand s .start) (a : s.state = .idle) (record : t.sinkRecord = s.sinkRecord)
      (opened : streaming t = true)
  | accepted (b : Byte) (last : Bool) (e : nextTurnIs s .sinkAccept) (wasOpen : streaming s = true)
      (record : t.sinkRecord = s.sinkRecord ++ [.byte b last]) (ends : streaming t = !last)
  | aborted (e : ¬ nextTurnIs s .sinkAccept) (wasOpen : streaming s = true) (closed : streaming t = false)
      (record : t.sinkRecord = s.sinkRecord ++ [.abort])
  | hardReset (e : nextTurnIs s .hardReset)

theorem StreamStep.of_keepsOrAborts {s t : State} (e : ¬ nextTurnIs s .sinkAccept) (h : keepsOrAborts s t) :
    StreamStep s t := by
  rcases h with ⟨record, still⟩ | ⟨wasOpen, closed, record⟩
  · exact .kept record still
  · exact .aborted e wasOpen closed record

theorem step_stream {s t : State} (hstep : step s = .next t) : StreamStep s t := by
  obtain ⟨u, hsu, effect⟩ := step_effect hstep
  have hrec := sameBlock_sinkRecord hsu
  have hopen := sameBlock_streaming hsu
  have of_update (h : keepsOrAborts u t) : keepsOrAborts s t := by rwa [keepsOrAborts, hrec, hopen] at h
  cases effect with
  | read addr _ _ _ h => rw [h, memReadState_frame]; exact .kept hrec hopen
  | command i e ha h =>
    by_cases hi : i = .start
    · subst hi
      exact .begun e (sameBlock_state hsu ▸ (accepted_start u.state).mp ha) (by rw [h]; exact hrec) (by rw [h]; rfl)
    · exact .of_keepsOrAborts e.not_sinkAccept (of_update (h ▸ effectOf_keepsOrAborts hi ha))
  | config r v _ _ hb h =>
    have hclosed : streaming t = false := streaming_of_not_busy (by simpa [h, busy] using hb)
    refine .kept (by rw [configWrite_frame r v h]; exact hrec) (hclosed.trans ?_)
    rw [← hopen, streaming_of_not_busy hb]
  | core e h => exact .of_keepsOrAborts e.not_sinkAccept (of_update (h ▸ coreStep_keepsOrAborts u))
  | accept e h =>
    rcases emitterStep_stream_cases h with rfl | ⟨hu, b, last, record, ends⟩
    · exact .kept hrec hopen
    · exact .accepted b last e (hopen ▸ hu) (hrec ▸ record) ends
  | sinkError e h =>
    exact .of_keepsOrAborts (fun ha => by cases nextTurnIs_unique e ha) (of_update (h ▸ sinkErrorStep_keepsOrAborts u))
  | hardReset e _ => exact .hardReset e
  | idle _ h | rejected _ _ _ _ h | ignored _ _ _ h | status _ _ h | irqEn _ _ h => rw [h]; exact .kept hrec hopen

/-- A START in IDLE begins a stream (43_control R220, 41_synthesis R176). -/
theorem streaming_of_start {s t : State} (hs : s.state = .idle) (e : nextIsCommand s .start)
    (hstep : step s = .next t) : streaming t = true := by
  obtain ⟨w, ⟨⟨turns, hsched⟩, prog, hprog⟩, hd⟩ := e
  obtain rfl : w = 0x00000003 := decode_eq_command_iff.mp hd
  rw [step_start hs hprog hsched] at hstep
  obtain rfl := Host.Outcome.next.inj hstep
  rfl

/-- A hardware reset puts nothing on the stream it closes (70_reset_and_hazards R290). -/
theorem step_hardReset {s : State} {turns : List Turn} (h : s.schedule = .hardReset :: turns) :
    step s = .next (resetBlock (countRace { s with schedule := turns })) := by
  simp [step, runSchedule, h, takeTurn, hardResetStep]

/-- Settles O36: each clause is what `step_stream` leaves of a stream that is closed, goes on, or ends. -/
theorem everyStreamEndsWithOneTerminator : Obligations.EveryStreamEndsWithOneTerminator := by
  refine ⟨fun s t hstep hhard => ⟨fun hs => ?_, fun hs ht => ?_, fun hs ht => ?_⟩, ?_⟩
  · have begins : s.state = .idle ∧ nextIsCommand s .start → streaming t = true :=
      fun ⟨hidle, e⟩ => streaming_of_start hidle e hstep
    cases step_stream hstep with
    | kept record still => exact ⟨record, fun ht => by simp [still, hs] at ht, begins⟩
    | begun e a record opened => exact ⟨record, fun _ => ⟨a, e⟩, begins⟩
    | accepted _ _ _ wasOpen | aborted _ wasOpen => simp [hs] at wasOpen
    | hardReset e => exact absurd e hhard
  · cases step_stream hstep with
    | kept record | begun _ _ record => exact ⟨[], by simpa using record, by simp⟩
    | accepted b last _ _ record ends =>
      have hlast : last = false := by simpa [ht] using ends
      exact ⟨[.byte b last], record, by simpa [isTerminator] using hlast⟩
    | aborted _ _ closed => simp [ht] at closed
    | hardReset e => exact absurd e hhard
  · cases step_stream hstep with
    | kept _ still => simp [ht, hs] at still
    | begun _ _ _ opened => simp [ht] at opened
    | accepted b last e _ record ends =>
      have hlast : last = true := by simpa [ht] using ends
      exact ⟨.byte b last, record, hlast, by simpa using e⟩
    | aborted e _ _ record => exact ⟨.abort, record, rfl, by simpa using e⟩
    | hardReset e => exact absurd e hhard
  · rintro s t hstep ⟨turns, hsched⟩
    rw [step_hardReset hsched] at hstep
    obtain rfl := Host.Outcome.next.inj hstep
    exact ⟨rfl, rfl⟩

end Sys2Proof.Machine
end

section
/-! The bytes of a stream (42_emission R191 to R196): the closed form as pairs of samples, the nested loop that gives
the same bytes, and how many of them are on (R203). -/

namespace Sys2Proof.Machine

/-! ## The byte at a position -/

theorem streamByte_even (w : Waveform) (k : Nat) : streamByte w (2 * k) = iSample w k := by
  simp [streamByte]

theorem streamByte_odd (w : Waveform) (k : Nat) : streamByte w (2 * k + 1) = 0x00 := by
  simp [streamByte, qSample]

theorem onAt_iff (w : Waveform) (j : Nat) :
    onAt w j = true ↔ j < w.pulses * w.priSamples ∧ j % w.priSamples < w.pulseSamples := by
  simp only [onAt, Bool.and_eq_true, decide_eq_true_eq]

/-- Settles O28: the even and the odd bytes, with `onAt` written out. -/
theorem streamBytesAreOnOffPairs : Obligations.StreamBytesAreOnOffPairs := by
  intro s k
  refine ⟨?_, streamByte_odd _ k⟩
  rw [streamByte_even, iSample]
  simp only [onAt_iff]
  rfl

/-! ## Samples as pairs of bytes -/

/-- The bytes of `len` samples, each its I byte given by `f` and its Q byte zero (42_emission R193). -/
def pairBytes (f : Nat → Byte) (len : Nat) : List Byte := (List.range len).flatMap fun k => [f k, 0x00]

theorem pairBytes_succ (f : Nat → Byte) (len : Nat) : pairBytes f (len + 1) = pairBytes f len ++ [f len, 0x00] := by
  simp [pairBytes, List.range_succ]

theorem pairBytes_add (f : Nat → Byte) (a b : Nat) :
    pairBytes f (a + b) = pairBytes f a ++ pairBytes (fun k => f (a + k)) b := by
  simp only [pairBytes, List.range_add, List.flatMap_append, List.flatMap_map]

theorem pairBytes_congr {f g : Nat → Byte} {len : Nat} (h : ∀ k < len, f k = g k) :
    pairBytes f len = pairBytes g len := by
  induction len with
  | zero => rfl
  | succ len ih => rw [pairBytes_succ, pairBytes_succ, ih fun k hk => h k (by omega), h len (by omega)]

/-- A part of `a` samples and one of `b` samples after it. -/
theorem pairBytes_append {f g h : Nat → Byte} {a b : Nat} (hf : ∀ k < a, f k = h k) (hg : ∀ k < b, g k = h (a + k)) :
    pairBytes f a ++ pairBytes g b = pairBytes h (a + b) := by
  rw [pairBytes_add, pairBytes_congr hf, pairBytes_congr hg]

/-- The closed form emits the samples `I(k)` in order (42_emission R193). -/
theorem map_streamByte_range (w : Waveform) (len : Nat) :
    (List.range (2 * len)).map (streamByte w) = pairBytes (iSample w) len := by
  induction len with
  | zero => rfl
  | succ len ih =>
    rw [Nat.mul_succ, List.range_succ, List.range_succ, pairBytes_succ, ← ih]
    simp [streamByte_even, streamByte_odd]

/-! ## The nested loop -/

theorem emitPairs_eq (k : Nat) (i : Byte) : emitPairs k i = pairBytes (fun _ => i) k := by
  induction k with
  | zero => rfl
  | succ k ih => rw [emitPairs, ih, Nat.add_comm k 1, pairBytes_add]; rfl

/-- A loop of `m` rounds of `len` samples each repeats them with that period. -/
theorem repeatBytes_pairBytes (f : Nat → Byte) (len m : Nat) :
    repeatBytes m (pairBytes f len) = pairBytes (fun k => f (k % len)) (len * m) := by
  induction m with
  | zero => rfl
  | succ m ih =>
    rw [repeatBytes, ih, Nat.mul_succ, Nat.add_comm]
    exact pairBytes_append (fun k hk => by rw [Nat.mod_eq_of_lt hk]) (fun k _ => by rw [Nat.add_mod_left])

/-- One pulse slot: `ps` samples on, the rest of the slot off (42_emission R191). -/
theorem pulse_slot_bytes {ps rs : Nat} (h : ps ≤ rs) (on : Byte) :
    emitPairs ps on ++ emitPairs (rs - ps) 0x00 = pairBytes (fun j => if j < ps then on else 0x00) rs := by
  rw [emitPairs_eq, emitPairs_eq]
  conv_rhs => rw [← Nat.add_sub_of_le h]
  exact pairBytes_append (fun k hk => by simp [hk]) (fun k _ => by simp)

/-- One burst: `n` slots, then the pad (42_emission R191). -/
theorem burst_bytes {ps rs : Nat} (h : ps ≤ rs) (n pads : Nat) (on : Byte) :
    repeatBytes n (emitPairs ps on ++ emitPairs (rs - ps) 0x00) ++ emitPairs pads 0x00 =
      pairBytes (fun j => if j < n * rs ∧ j % rs < ps then on else 0x00) (n * rs + pads) := by
  rw [pulse_slot_bytes h, repeatBytes_pairBytes, emitPairs_eq, Nat.mul_comm rs n]
  exact pairBytes_append (fun k hk => by simp [hk]) (fun k _ => by simp)

/-- Settles O30: a burst by `burst_bytes`, repeated with its own length as period. -/
theorem loopFormIsTheClosedForm : Obligations.LoopFormIsTheClosedForm := by
  intro bc n ps rs pads on hps _
  rw [map_streamByte_range, loopStream, burst_bytes hps.le, repeatBytes_pairBytes]
  refine pairBytes_congr fun k _ => ?_
  simp only [iSample, onAt_iff]

/-! ## The bytes that are on -/

theorem countP_repeatBytes (p : Byte → Bool) (k : Nat) (body : List Byte) :
    (repeatBytes k body).countP p = k * body.countP p := by
  induction k with
  | zero => simp [repeatBytes]
  | succ k ih => rw [repeatBytes, List.countP_append, ih, Nat.succ_mul, Nat.add_comm]

theorem countP_emitPairs_on {on : Byte} (h : on ≠ 0x00) (k : Nat) : (emitPairs k on).countP (· != 0x00) = k := by
  induction k with
  | zero => rfl
  | succ k ih => rw [emitPairs, List.countP_cons_of_pos (by simpa using h), List.countP_cons_of_neg (by simp), ih]

theorem countP_emitPairs_off (k : Nat) : (emitPairs k 0x00).countP (· != 0x00) = 0 := by
  induction k with
  | zero => rfl
  | succ k ih => rw [emitPairs, List.countP_cons_of_neg (by simp), List.countP_cons_of_neg (by simp), ih]

/-- Only the `ps` samples of each pulse are on (42_emission R203). -/
theorem countP_loopStream {on : Byte} (h : on ≠ 0x00) (bc n ps rs pads : Nat) :
    (loopStream bc n ps rs pads on).countP (· != 0x00) = bc * (n * ps) := by
  simp only [loopStream, countP_repeatBytes, List.countP_append, countP_emitPairs_on h, countP_emitPairs_off,
    Nat.add_zero]

theorem iSample_eq_zero {w : Waveform} (h : w.on = 0x00 ∨ w.pulseSamples = 0) (k : Nat) : iSample w k = 0x00 := by
  rcases h with hon | hps
  · simp [iSample, hon]
  · simp [iSample, onAt, hps]

theorem streamByte_eq_zero {w : Waveform} (h : w.on = 0x00 ∨ w.pulseSamples = 0) (p : Nat) : streamByte w p = 0x00 := by
  rcases Nat.even_or_odd' p with ⟨k, rfl | rfl⟩
  · rw [streamByte_even, iSample_eq_zero h]
  · exact streamByte_odd w k

/-- Settles O32: the bytes are counted in the nested loop, which `loopFormIsTheClosedForm` says is the same stream. -/
theorem onBytesOfACompleteStream : Obligations.OnBytesOfACompleteStream := by
  intro bc n ps rs pads on hps hburst
  refine ⟨by simp [completeStream], fun hon => ?_, fun h p => streamByte_eq_zero h p⟩
  rw [← countP_loopStream hon bc n ps rs pads, loopFormIsTheClosedForm bc n ps rs pads on hps hburst, List.countP_map]
  rfl

/-! ## What the stream depends on -/

/-- Valid counts are those of the configuration (10_state R24, 41_synthesis R173). -/
theorem BlockInv.counts_eq_of_sameConfig {s t : State} (hs : BlockInv s) (ht : BlockInv t) (hsv : s.countsValid = true)
    (htv : t.countsValid = true) (h : sameConfig s t) : s.counts = t.counts := by
  obtain ⟨r, hr, hscounts⟩ := hs.valid hsv
  obtain ⟨r', hr', htcounts⟩ := ht.valid htv
  rw [quantizeState_of_sameConfig h, hr] at hr'
  obtain rfl := QuantOutcome.result.inj hr'
  rw [hscounts, htcounts]

/-- Settles O31: a waveform is made of the results, PULSE_COUNT and ON_LEVEL. -/
theorem streamDependsOnConfigurationOnly : Obligations.StreamDependsOnConfigurationOnly := by
  intro s t hs ht hsv htv hcfg
  have hcounts := hs.counts_eq_of_sameConfig ht hsv htv hcfg
  obtain ⟨hon, -, -, -, hpulses, -, -⟩ := hcfg
  have hw : waveform s = waveform t := by simp only [waveform, hcounts, hon, hpulses]
  exact ⟨hw, congrArg completeStream hw⟩

end Sys2Proof.Machine
end

section
/-! The Emitter at work (42_emission R192, R194, R198, R201): a byte accepted, a sink that fails, a sink that accepts
every byte, and one that accepts none. -/

namespace Sys2Proof.Machine

/-! ## A byte accepted -/

/-- Settles O29: `emitterStep_of_blockInv`, with the delivery and the completion written out field by field. -/
theorem emitterStepDeliversOneByte : Obligations.EmitterStepDeliversOneByte := by
  refine ⟨fun s h hs => ⟨?_, ?_, pos_succ_toNat (h.byteDefined_of_emitting hs)⟩, fun s hs => ⟨?_, if_neg hs⟩,
    fun s turns hsched => step_sinkAccept hsched⟩
  · rw [streamOffer, sValid, hs]; rfl
  · have hlast : isLast (waveform s) s.pos.toNat = decide (s.pos.toNat + 1 = 2 * s.counts.totalSamples.toNat) := rfl
    rw [emitterStep_of_blockInv h hs]
    split_ifs with hend <;> simp [complete, deliverByte, hlast, hend, hs]
  · simp [streamOffer, sValid, hs]

/-! ## A sink that fails -/

theorem step_sinkError {s : State} {turns : List Turn} (h : s.schedule = .sinkError :: turns) :
    step s = .next (sinkErrorStep (countRace { s with schedule := turns })) := by
  simp [step, runSchedule, h, takeTurn]

/-- Settles O26: `raise Error(IO_SINK)` with a stream open. -/
theorem sinkErrorEndsTheEmission : Obligations.SinkErrorEndsTheEmission := by
  refine ⟨fun s hs => ?_, fun s hs => if_neg hs, fun s turns hsched => step_sinkError hsched⟩
  have hopen : streaming s = true := (streaming_iff s).mpr (.inl hs)
  rw [sinkErrorStep, if_pos hs, raiseError_frame, endOpenStream_sinkRecord, if_pos hopen]

/-! ## A sink that accepts every byte -/

/-- Settles O33: `run_accepted_emission`, with as many turns as bytes are left. -/
theorem acceptedEmissionCompletes : Obligations.AcceptedEmissionCompletes := by
  intro s rest h hs hsched
  obtain ⟨-, hpos⟩ := h.emitting hs
  exact run_accepted_emission h hs (Nat.add_sub_of_le hpos.le) hsched

/-! ## A sink that accepts no byte -/

/-- While EMITTING the one accepted command besides ABORT and RESET is NOP (43_control R220). -/
theorem effectOf_eq_self_of_no_abort {i : Instr} (habort : i ≠ .abort) (hreset : i ≠ .reset) {s : State}
    (hs : s.state = .emitting) (ha : accepted i s.state = true) : effectOf i s = s := by
  cases i with
  | nop => rfl
  | abort => exact absurd rfl habort
  | reset => exact absurd rfl hreset
  | loadPattern | compute | start | clear => simp [hs] at ha

/-- STATE, EMIT_BYTES, what the stream depends on and the sink's record are as they were. -/
def keepsEmission (s t : State) : Prop :=
  t.state = s.state ∧ t.pos = s.pos ∧ waveform t = waveform s ∧ t.sinkRecord = s.sinkRecord

theorem keepsEmission.refl (s : State) : keepsEmission s s := ⟨rfl, rfl, rfl, rfl⟩

theorem keepsEmission.of_sameBlock {s u t : State} (hu : sameBlock s u) (h : keepsEmission u t) :
    keepsEmission s t := by
  obtain ⟨_, _, _, rfl⟩ := hu; exact h

/-- The offer is a function of STATE, EMIT_BYTES and the waveform (42_emission R192). -/
theorem keepsEmission.streamOffer_eq {s t : State} (h : keepsEmission s t) : streamOffer t = streamOffer s := by
  obtain ⟨hstate, hpos, hw, -⟩ := h
  rw [streamOffer, sValid, hstate, hpos, hw]; rfl

/-- While EMITTING only a byte accepted, a sink error, ABORT and the two resets touch the emission (R201). -/
theorem step_keepsEmission {s t : State} (hs : s.state = .emitting) (hstep : step s = .next t)
    (haccept : ¬ nextTurnIs s .sinkAccept) (hsink : ¬ nextTurnIs s .sinkError) (hhard : ¬ nextTurnIs s .hardReset)
    (habort : ¬ nextIsCommand s .abort) (hreset : ¬ nextIsCommand s .reset) : keepsEmission s t := by
  obtain ⟨u, hsu, effect⟩ := step_effect hstep
  have hu : u.state = .emitting := (sameBlock_state hsu).trans hs
  refine .of_sameBlock hsu ?_
  cases effect with
  | read addr _ v _ h => rw [h, memReadState_frame]; exact .refl u
  | command i e ha h =>
    rw [h, effectOf_eq_self_of_no_abort (fun hi => habort (hi ▸ e)) (fun hi => hreset (hi ▸ e)) hu ha]
    exact .refl u
  | config _ _ _ _ hb _ => simp [busy, hu] at hb
  | core _ h => rw [h, coreStep_of_not_computing (by simp [hu])]; exact .refl u
  | accept e _ => exact absurd e haccept
  | sinkError e _ => exact absurd e hsink
  | hardReset e _ => exact absurd e hhard
  | idle _ h | rejected _ _ _ _ h | ignored _ _ _ h | status _ _ h | irqEn _ _ h => rw [h]; exact .refl u

/-- With no turn left a block that is not COMPUTING waits (70_reset_and_hazards R313, assumption log 1). -/
theorem run_of_no_turn {s : State} (hs : s.state ≠ .computing) (hsched : s.schedule = []) (k : Nat) :
    core.run k s = .next s := by
  have hstep : step s = .next s := by simp [step, runSchedule, hsched, idleTurn, hs]
  induction k with
  | zero => exact run_zero s
  | succ k ih => rw [run_succ hstep, ih]

/-- Settles O35: `step_keepsEmission` with the offer it leaves, and the run in which no turn comes. -/
theorem stalledSinkHoldsTheOffer : Obligations.StalledSinkHoldsTheOffer := by
  refine ⟨fun s t hs hstep haccept hsink hhard habort hreset => ?_,
    fun s k hs hsched => run_of_no_turn (by simp [hs]) hsched k⟩
  have hkeeps := step_keepsEmission hs hstep haccept hsink hhard habort hreset
  have hoffer := hkeeps.streamOffer_eq
  obtain ⟨hstate, hpos, -, hrec⟩ := hkeeps
  exact ⟨hstate.trans hs, hpos, hoffer, hrec⟩

end Sys2Proof.Machine
end

section
/-! Acceptance and rejection (43_control R220, R221): which commands are performed, and which accesses set REJECTED. -/

namespace Sys2Proof.Machine

/-! ## The acceptance table -/

/-- Settles O8: the table row by row, and `exec_of_not_accepted`, `memWrite_command` and `memWrite_illegal` for the words
that reach CMD. -/
theorem acceptanceTable : Obligations.AcceptanceTable :=
  ⟨fun _ => ⟨rfl, rfl, rfl⟩, accepted_loadPattern, accepted_compute, accepted_start, accepted_clear,
    fun _ _ ha => exec_of_not_accepted (Bool.eq_false_iff.mp ha), fun _ _ s hd => memWrite_command hd s,
    fun _ _ s hd => memWrite_illegal hd s⟩

/-! ## The accesses that reject -/

/-- A register stands at its own offset and nowhere else (10_state R23). -/
theorem regAt_eq_some_iff {addr : Byte} {r : Reg} : regAt addr = some r ↔ addr = regOffset r :=
  ⟨regAt_some, fun h => h ▸ regAt_offset r⟩

/-- The listed writes reject and do nothing else (43_control R221). -/
theorem memWrite_of_writeRejects {addr : Byte} {v : Word} {s : State} (h : writeRejects addr v s) :
    memWrite addr v s = .next (reject s) := by
  simp only [writeRejects, regAt_eq_some_iff] at h
  rcases h with hm | ⟨rfl, why, hd⟩ | ⟨rfl, i, hd, ha⟩ | ⟨r, rfl, hr, hb⟩
  · exact memWrite_misaligned hm v s
  · exact memWrite_illegal hd s
  · exact (memWrite_command hd s).trans (exec_of_not_accepted (Bool.eq_false_iff.mp ha))
  · exact memWrite_config_busy hr hb v

/-- RESET clears REJECTED and no other effect of a command writes it (43_control R228). -/
theorem effectOf_rejected_eq (i : Instr) (s : State) :
    (effectOf i s).rejected = if i = .reset then false else s.rejected := by
  split_ifs with hi
  · subst hi; rfl
  · exact effectOf_rejected hi s

/-- No write outside the list sets REJECTED (43_control R221). -/
theorem writeRejects_of_sets_rejected {addr : Byte} {v : Word} {s t : State} (h : memWrite addr v s = .next t)
    (hs : s.rejected = false) (ht : t.rejected = true) : writeRejects addr v s := by
  rcases memWrite_cases h with ⟨hw, -⟩ | ⟨-, rfl, -⟩ | ⟨-, -, i, -, -, rfl⟩ | ⟨-, -, rfl⟩ | ⟨-, -, rfl⟩ |
    ⟨-, r, -, -, -, rfl⟩
  · exact hw
  · simp [hs] at ht
  · simp [effectOf_rejected_eq, hs] at ht
  · simp [hs] at ht
  · simp [hs] at ht
  · simp [hs] at ht

/-- An aligned read loads the latch or does nothing (20_memory R76). -/
theorem memReadState_rejected_of_aligned {addr : Byte} (ha : misaligned addr = false) (s : State) :
    (memReadState addr s).rejected = s.rejected := by
  rcases memReadState_cases addr s with ⟨hm, -⟩ | ⟨-, -, h⟩ | ⟨-, -, h⟩
  · simp [ha] at hm
  · rw [h]
  · rw [h]

/-- Settles O9: the list of R221 is `writeRejects` with registers named by their offsets. -/
theorem rejectingAccessesAreExactlyThese : Obligations.RejectingAccessesAreExactlyThese := by
  have listed (addr : Byte) (v : Word) (s : State) : writeRejects addr v s ↔
      (misaligned addr = true ∨
        (addr = 0x04 ∧ ∃ why, decode v = .illegal why) ∨
        (addr = 0x04 ∧ ∃ i, decode v = .command i ∧ accepted i s.state = false) ∨
        (∃ r, addr = regOffset r ∧ isConfig r = true ∧ busy s = true)) := by
    simp only [writeRejects, regAt_eq_some_iff]; rfl
  simp only [Obligations.RejectingAccessesAreExactlyThese, ← listed]
  exact ⟨fun _ _ _ => memWrite_of_writeRejects, fun _ _ _ _ => writeRejects_of_sets_rejected,
    fun _ s ha => memReadState_misaligned ha s, fun _ s ha => memReadState_rejected_of_aligned ha s⟩

end Sys2Proof.Machine
end

section
/-! The control commands (43_control R225 to R228) in each STATE, and what they do with the flags (R224). -/

namespace Sys2Proof.Machine

/-! ## NOP -/

/-- Settles O10: the effect of NOP is none, and a nonzero operand makes its word illegal. -/
theorem nopHasNoEffect : Obligations.NopHasNoEffect :=
  ⟨fun _ => decode_eq_command_iff, exec_eq .nop, memWrite_illegal (why := .operandNotZero) rfl⟩

/-! ## ABORT -/

/-- With no operation under way ABORT has nothing to end (43_control R226). -/
theorem abortEffect_of_not_busy {s : State} (hb : busy s = false) : abortEffect s = s := by
  rcases abortEffect_cases s with ⟨-, h⟩ | ⟨hs, -⟩ | ⟨hs, -⟩
  · exact h
  · simp [busy, hs] at hb
  · simp [busy, hs] at hb

/-- The computation of a START has begun a stream, that of a COMPUTE has not (43_control R226). -/
theorem abortEffect_of_computing {s : State} (hs : s.state = .computing) :
    abortEffect s = { s with
      startPending := false
      state := .idle
      aborted := true
      sinkRecord := s.sinkRecord ++ (if s.startPending then [.abort] else []) } := by
  have h : abortEffect s = { endOpenStream s with startPending := false, state := .idle, aborted := true } := by
    simp [abortEffect, hs]
  rw [h, endOpenStream_frame, endOpenStream_sinkRecord, streaming_of_computing hs]

theorem abortEffect_of_emitting {s : State} (hs : s.state = .emitting) :
    abortEffect s = { s with state := .idle, aborted := true, sinkRecord := s.sinkRecord ++ [.abort] } := by
  have h : abortEffect s = { endOpenStream s with state := .idle, aborted := true } := by simp [abortEffect, hs]
  have hopen : streaming s = true := (streaming_iff s).mpr (.inl hs)
  rw [h, endOpenStream_frame, endOpenStream_sinkRecord, if_pos hopen]

/-- Settles O14: ABORT is accepted in every STATE, and its effect is an equation per STATE. -/
theorem abortEndsTheOperation : Obligations.AbortEndsTheOperation := by
  have performed (s : State) : exec .abort s = .next (abortEffect s) := exec_of_accepted rfl
  refine ⟨fun w => decode_eq_command_iff, fun s hs => ?_, fun s hs => ?_, fun s hs => ?_, fun s hs => ?_⟩
  · rw [performed, abortEffect_of_not_busy (by simp [busy, hs])]
  · rw [performed, abortEffect_of_not_busy (by simp [busy, hs])]
  · rw [performed, abortEffect_of_computing hs]
  · rw [performed, abortEffect_of_emitting hs]

/-! ## CLEAR -/

theorem exec_clear_of_error {s : State} (hs : s.state = .error) :
    exec .clear s = .next { s with errCause := .none, state := .idle } := by
  rw [exec_of_accepted ((accepted_clear s.state).mpr (.inr hs)), effectOf, clearError, if_pos hs]

theorem exec_clear_of_idle {s : State} (hs : s.state = .idle) : exec .clear s = .next { s with errCause := .none } := by
  rw [exec_of_accepted ((accepted_clear s.state).mpr (.inl hs)), effectOf, clearError, if_neg (by simp [hs])]

/-- Settles O15: in IDLE there is no cause left to clear (`BlockInv.errCause_none`). -/
theorem clearAcknowledgesTheError : Obligations.ClearAcknowledgesTheError := by
  refine ⟨fun w => decode_eq_command_iff, fun s => exec_clear_of_error, fun s => exec_clear_of_idle,
    fun s h hs => ?_, fun s hs => exec_of_not_accepted ?_⟩
  · rw [exec_clear_of_idle hs, ← h.errCause_none (by simp [hs])]
  · rcases hs with hs | hs <;> simp [hs]

/-! ## RESET -/

/-- Settles O16: `resetBlock` on a stream already ended, which `endOpenStream` does when one is open. -/
theorem resetCommandRestoresResetState : Obligations.ResetCommandRestoresResetState := by
  refine ⟨fun w => decode_eq_command_iff, fun s => ⟨resetBlock (endOpenStream s), exec_of_accepted rfl, rfl, rfl, ?_,
    endOpenStream_hostProgram s, endOpenStream_schedule s, endOpenStream_hostReads s, endOpenStream_raceStep s⟩⟩
  simp only [resetBlock_sinkRecord, endOpenStream_sinkRecord, streaming_iff]

/-! ## No command reads DONE, ABORTED, REJECTED or IRQ_EN -/

section
variable (d a r : Bool) (e : BitVec 4)

theorem endOpenStream_setFlags (s : State) : endOpenStream (setFlags d a r e s) = setFlags d a r e (endOpenStream s) := by
  rw [endOpenStream_frame, endOpenStream_frame s, endOpenStream_sinkRecord, endOpenStream_sinkRecord]; rfl

theorem raiseError_setFlags (c : Cause) (s : State) :
    raiseError c (setFlags d a r e s) = setFlags d a r e (raiseError c s) := by
  rw [raiseError, endOpenStream_setFlags]; rfl

theorem loadPattern_setFlags (dom idx : Byte) (s : State) :
    loadPattern dom idx (setFlags d a r e s) = setFlags d a r e (loadPattern dom idx s) := by
  unfold loadPattern
  split
  · exact raiseError_setFlags d a r e _ s
  · split
    · exact raiseError_setFlags d a r e _ s
    · rfl

/-- ABORT writes ABORTED, which `setFlags` after it sets again (43_control R224, R226). -/
theorem setFlags_abortEffect_setFlags (s : State) :
    setFlags d a r e (abortEffect (setFlags d a r e s)) = setFlags d a r e (abortEffect s) := by
  unfold abortEffect
  rw [endOpenStream_setFlags, show (setFlags d a r e s).state = s.state from rfl]
  cases s.state <;> rfl

/-- What an accepted command does to the rest of the state does not depend on the four (43_control R224). -/
theorem setFlags_effectOf_setFlags (i : Instr) (s : State) :
    setFlags d a r e (effectOf i (setFlags d a r e s)) = setFlags d a r e (effectOf i s) := by
  cases i with
  | nop | compute | start | clear => rfl
  | loadPattern dom idx => rw [effectOf, loadPattern_setFlags]; rfl
  | abort => exact setFlags_abortEffect_setFlags d a r e s
  | reset => rw [effectOf, endOpenStream_setFlags]; rfl

/-- Acceptance reads STATE alone, and `reject()` writes REJECTED alone (43_control R220, R221). -/
theorem exec_setFlags {i : Instr} {s t : State} (h : exec i s = .next t) :
    ∃ t', exec i (setFlags d a r e s) = .next t' ∧ setFlags d a r e t' = setFlags d a r e t := by
  rcases exec_cases h with ⟨ha, rfl⟩ | ⟨ha, rfl⟩
  · exact ⟨_, exec_of_accepted ha, setFlags_effectOf_setFlags d a r e i s⟩
  · exact ⟨_, exec_of_not_accepted (Bool.eq_false_iff.mp ha), rfl⟩

end

/-! ## The flags after a command -/

/-- A START that is performed was written in IDLE. -/
theorem effectOf_done_eq {i : Instr} {s : State} (ha : accepted i s.state = true) :
    (effectOf i s).done = if i = .reset ∨ (i = .start ∧ s.state = .idle) then false else s.done := by
  split_ifs with h
  · rcases h with rfl | ⟨rfl, -⟩ <;> rfl
  · obtain ⟨hreset, hstart⟩ := not_or.mp h
    exact effectOf_done (fun hi => hstart ⟨hi, (accepted_start _).mp (hi ▸ ha)⟩) hreset s

theorem abortEffect_aborted (s : State) :
    (abortEffect s).aborted = if s.state = .computing ∨ s.state = .emitting then true else s.aborted := by
  rcases abortEffect_cases s with ⟨hs | hs, h⟩ | ⟨hs, h⟩ | ⟨hs, h⟩ <;> simp [h, hs]

theorem effectOf_aborted_eq {i : Instr} {s : State} (ha : accepted i s.state = true) :
    (effectOf i s).aborted =
      if i = .reset ∨ (i = .start ∧ s.state = .idle) then false
      else if i = .abort ∧ (s.state = .computing ∨ s.state = .emitting) then true
      else s.aborted := by
  cases i with
  | nop | compute | clear => simp [effectOf]
  | loadPattern dom idx => simp only [effectOf]; rw [loadPattern_frame]; simp
  | start => simp [effectOf, (accepted_start _).mp ha]
  | abort => simpa [effectOf] using abortEffect_aborted s
  | reset => rfl

theorem effectOf_irqEn_eq (i : Instr) (s : State) :
    (effectOf i s).irqEn = if i = .reset then 0#4 else s.irqEn := by
  split_ifs with hi
  · subst hi; rfl
  · rw [effectOf_frame hi]

/-- A command that is not accepted is no RESET, no ABORT, and no START in IDLE (43_control R220). -/
theorem ne_of_not_accepted {i : Instr} {s : State} (ha : accepted i s.state = false) :
    i ≠ .reset ∧ i ≠ .abort ∧ ¬ (i = .start ∧ s.state = .idle) := by
  refine ⟨?_, ?_, ?_⟩
  · rintro rfl; cases ha
  · rintro rfl; cases ha
  · rintro ⟨rfl, hs⟩; simp [accepted, hs] at ha

/-- Settles O17: `exec_setFlags`, and each flag after the effect of an accepted command or after `reject()`. -/
theorem commandsReadNoFlags : Obligations.CommandsReadNoFlags := by
  refine ⟨fun i d a r e s t => exec_setFlags d a r e, fun i s t h => ?_⟩
  rcases exec_cases h with ⟨ha, rfl⟩ | ⟨ha, rfl⟩
  · exact ⟨effectOf_done_eq ha, effectOf_aborted_eq ha, by rw [effectOf_rejected_eq, if_pos ha], effectOf_irqEn_eq i s⟩
  · obtain ⟨hreset, habort, hstart⟩ := ne_of_not_accepted ha
    simp [hreset, habort, hstart, ha]

end Sys2Proof.Machine
end

section
/-! The transitions of STATE (60_exceptions R255): which row of the table each update of a step makes. -/

namespace Sys2Proof.Machine

section
variable {s u t : State}

/-- An accepted command that changes STATE makes the row of its mnemonic. -/
theorem ListedTransition.of_command {i : Instr} (hsu : sameBlock s u) (e : nextIsCommand s i)
    (ha : accepted i u.state = true) (hne : (effectOf i u).state ≠ u.state) : ListedTransition s (effectOf i u) := by
  have hs := sameBlock_state hsu
  cases i with
  | nop => exact absurd rfl hne
  | loadPattern d i =>
    have hidle : s.state = .idle := hs ▸ (accepted_loadPattern d i u.state).mp ha
    simp only [effectOf] at hne ⊢
    rcases loadPattern_cases d i u with ⟨hd, h⟩ | ⟨_, -, hi, h⟩ | ⟨_, _, -, -, h⟩ <;> rw [h] at hne ⊢
    · exact .badPattern d i e (.inl hd) hidle (raiseError_state _ u)
    · exact .badPattern d i e (.inr hi) hidle (raiseError_state _ u)
    · exact absurd rfl hne
  | compute => exact .compute e (hs ▸ (accepted_compute u.state).mp ha) rfl rfl
  | start => exact .start e (hs ▸ (accepted_start u.state).mp ha) rfl rfl
  | abort =>
    simp only [effectOf] at hne ⊢
    rcases abortEffect_cases u with ⟨-, h⟩ | ⟨hu, h⟩ | ⟨hu, h⟩ <;> rw [h] at hne ⊢
    · exact absurd rfl hne
    · exact .cancelled e (hs ▸ hu) rfl
    · exact .aborted e (hs ▸ hu) rfl
  | clear =>
    rcases (accepted_clear u.state).mp ha with hu | hu
    · exact absurd (by simp [effectOf, hu]) hne
    · exact .cleared e (hs ▸ hu) (by simp [effectOf, hu])
  | reset => exact .reset e rfl

/-- A Core step that changes STATE makes one of the three rows of COMPUTING (41_synthesis R160). -/
theorem ListedTransition.of_coreStep (hsu : sameBlock s u) (e : nextIsCore s) (hne : (coreStep u).state ≠ u.state) :
    ListedTransition s (coreStep u) := by
  have hs := sameBlock_state hsu
  have hp := sameBlock_startPending hsu
  have hq := quantizeState_of_sameConfig (sameBlock_sameConfig hsu)
  rcases coreStep_cases u with ⟨-, h⟩ | ⟨hu, c, hc, h⟩ | ⟨hu, hpend, r, hr, h⟩ | ⟨hu, hpend, r, hr, h⟩ <;>
    rw [h] at hne ⊢
  · exact absurd rfl hne
  · exact .failed c e (hq ▸ hc) (hs ▸ hu) (raiseError_state c u)
  · exact .started r e (hq ▸ hr) (hs ▸ hu) (hp ▸ hpend) rfl
  · exact .computed r e (hq ▸ hr) (hs ▸ hu) (hp ▸ hpend) rfl

theorem sameBlock_waveform (h : sameBlock s u) : waveform u = waveform s := by
  obtain ⟨_, _, _, rfl⟩ := h; rfl

/-- An acceptance that changes STATE is that of the final byte (42_emission R194). -/
theorem ListedTransition.of_emitterStep (hsu : sameBlock s u) (e : nextTurnIs s .sinkAccept)
    (he : emitterStep u = .next t) (hne : t.state ≠ u.state) : ListedTransition s t := by
  rcases emitterStep_cases he with ⟨-, rfl⟩ | ⟨hu, -, hl, rfl⟩ | ⟨-, -, -, rfl⟩
  · exact absurd rfl hne
  · rw [sameBlock_waveform hsu, sameBlock_pos hsu] at hl
    exact .completed e hl (sameBlock_state hsu ▸ hu) rfl rfl
  · exact absurd rfl hne

/-- A sink error that changes STATE came while EMITTING (42_emission R198). -/
theorem ListedTransition.of_sinkErrorStep (hsu : sameBlock s u) (e : nextTurnIs s .sinkError)
    (hne : (sinkErrorStep u).state ≠ u.state) : ListedTransition s (sinkErrorStep u) := by
  rcases sinkErrorStep_cases u with ⟨hu, h⟩ | ⟨-, h⟩ <;> rw [h] at hne ⊢
  · exact .sinkFailed e (sameBlock_state hsu ▸ hu) (raiseError_state _ u)
  · exact absurd rfl hne

end

/-- Settles O53: of the updates of a step, accepted commands, the Core step, the two turns of the sink and a hardware
reset write STATE, each in the rows of its lemma. -/
theorem onlyListedTransitions : Obligations.OnlyListedTransitions := by
  intro s t hstep hne
  obtain ⟨u, hsu, effect⟩ := step_effect hstep
  rw [← sameBlock_state hsu] at hne
  cases effect with
  | command i e ha h => subst h; exact .of_command hsu e ha hne
  | core e h => subst h; exact .of_coreStep hsu e hne
  | accept e he => exact .of_emitterStep hsu e he hne
  | sinkError e h => subst h; exact .of_sinkErrorStep hsu e hne
  | hardReset e h => subst h; exact .hardReset e rfl
  | read addr _ _ _ h => exact absurd (by rw [h, memReadState_frame]) hne
  | config r v _ _ _ h => exact absurd (by rw [h, noteTimingWrite_state, setConfig_state]) hne
  | idle _ h | rejected _ _ _ _ h | ignored _ _ _ h | status _ _ h | irqEn _ _ h =>
    exact absurd (congrArg State.state h) hne

end Sys2Proof.Machine
end

section
/-! Errors (60_exceptions R254, R256 to R258): how one is entered, and what leaves it. -/

namespace Sys2Proof.Machine

/-- `t` is in ERROR with the code of `s`, and no event has reached the sink. -/
def keepsError (s t : State) : Prop :=
  t.state = .error ∧ t.errCause = s.errCause ∧ t.sinkRecord = s.sinkRecord

/-- `t` is in IDLE with no code, and no event has reached the sink. -/
def leavesError (s t : State) : Prop :=
  t.state = .idle ∧ t.errCause = .none ∧ t.sinkRecord = s.sinkRecord

/-- No stream is open in ERROR, so that RESET has none to end (42_emission R197). -/
theorem endOpenStream_of_error {s : State} (hs : s.state = .error) : endOpenStream s = s :=
  if_neg (by simp [streaming, hs])

/-- In ERROR the accepted commands are NOP, ABORT, CLEAR and RESET, and the first two do nothing (43_control R220,
R226). -/
theorem effectOf_of_error {i : Instr} {s : State} (hs : s.state = .error) (ha : accepted i s.state = true) :
    effectOf i s = s ∨ ((i = .clear ∨ i = .reset) ∧ leavesError s (effectOf i s)) := by
  cases i with
  | nop => exact .inl rfl
  | abort => exact .inl (abortEffect_of_not_busy (by simp [busy, hs]))
  | clear => exact .inr ⟨.inl rfl, if_pos hs, rfl, rfl⟩
  | reset => exact .inr ⟨.inr rfl, rfl, rfl, by rw [effectOf, endOpenStream_of_error hs]; rfl⟩
  | loadPattern | compute | start => simp [hs] at ha

/-- From ERROR a step keeps the error, or it is one of the three events that leave it (60_exceptions R254, R257,
R258). -/
theorem step_of_error {s t : State} (hs : s.state = .error) (hstep : step s = .next t) :
    keepsError s t ∨
    ((nextIsCommand s .clear ∨ nextIsCommand s .reset ∨ nextTurnIs s .hardReset) ∧ leavesError s t) := by
  obtain ⟨u, hsu, effect⟩ := step_effect hstep
  have hu : u.state = .error := (sameBlock_state hsu).trans hs
  have hcause := sameBlock_errCause hsu
  have hrec := sameBlock_sinkRecord hsu
  have kept : keepsError s u := ⟨hu, hcause, hrec⟩
  cases effect with
  | command i e ha h =>
    rcases effectOf_of_error hu ha with hself | ⟨hi, hidle, hnone, hsink⟩
    · rw [h, hself]; exact .inl kept
    · refine .inr ⟨?_, h ▸ hidle, h ▸ hnone, h ▸ hsink.trans hrec⟩
      rcases hi with rfl | rfl
      · exact .inl e
      · exact .inr (.inl e)
  | hardReset e h => exact .inr ⟨.inr (.inr e), by rw [h]; exact ⟨rfl, rfl, hrec⟩⟩
  | core _ h => rw [h, coreStep_of_not_computing (by simp [hu])]; exact .inl kept
  | accept _ he =>
    rw [emitterStep, if_neg (by simp [hu])] at he
    exact .inl (Host.Outcome.next.inj he ▸ kept)
  | sinkError _ h => rw [h, sinkErrorStep, if_neg (by simp [hu])]; exact .inl kept
  | read addr _ _ _ h => rw [h, memReadState_frame]; exact .inl kept
  | config r v _ _ _ h =>
    rw [configWrite_frame r v h]
    exact .inl ⟨by rw [h]; simpa using hu, hcause, hrec⟩
  | idle _ h | rejected _ _ _ _ h | ignored _ _ _ h | status _ _ h | irqEn _ _ h => rw [h]; exact .inl kept

/-- Settles O25: the two outcomes of `step_of_error`. -/
theorem errorsPersistUntilAcknowledged : Obligations.ErrorsPersistUntilAcknowledged := by
  intro s t hs hstep
  rcases step_of_error hs hstep with ⟨hstate, hcause, hrec⟩ | ⟨e, -, -, hrec⟩
  · exact ⟨hrec, fun _ _ _ => ⟨hstate, hcause⟩⟩
  · exact ⟨hrec, fun hclear hreset hhard => absurd e (by simp [hclear, hreset, hhard])⟩

/-- A step that writes a code is taken outside ERROR: within it the code is kept or cleared. -/
theorem not_error_of_step_writes_code {s t : State} (hstep : step s = .next t) (hne : t.errCause ≠ s.errCause)
    (hcode : t.errCause ≠ .none) : s.state ≠ .error := by
  intro hs
  rcases step_of_error hs hstep with ⟨-, hsame, -⟩ | ⟨-, -, hnone, -⟩
  · exact hne hsame
  · exact hcode hnone

/-- Settles O24: `raiseError` field by field; a code is written outside ERROR, where the invariant has none, and the
invariant puts the state after the step in ERROR. -/
theorem raiseErrorEntersError : Obligations.RaiseErrorEntersError := by
  refine ⟨fun c s => ?_, fun s t hinv hstep hne hcode => ?_⟩
  · rw [raiseError_frame, endOpenStream_sinkRecord]
    simp only [streaming_iff]
  · have hs := not_error_of_step_writes_code hstep hne hcode
    refine ⟨hinv.errCause_none hs, ?_, (everyStepKeepsTheBlockInvariant s t hinv hstep).cause.mp hcode⟩
    cases h : s.state with
    | error => exact absurd h hs
    | idle | computing | emitting => simp

end Sys2Proof.Machine
end

section
/-! Runs (60_exceptions R263, 70_reset_and_hazards R315): the two invariants along every run from reset. -/

namespace Sys2Proof.Machine

/-- A run from a state that meets both invariants does not stop and ends in another one. -/
theorem run_keeps_invariants {s : State} (hb : BlockInv s) (hs : StreamInv s) (k : Nat) :
    ∃ t, core.run k s = .next t ∧ BlockInv t ∧ StreamInv t := by
  induction k generalizing s with
  | zero => exact ⟨s, run_zero s, hb, hs⟩
  | succ k ih =>
    obtain ⟨t, hstep⟩ := noStepStops s hb
    rw [run_succ hstep]
    exact ih (everyStepKeepsTheBlockInvariant s t hb hstep) (everyStepKeepsTheStreamInvariant s t hb hs hstep)

/-- Settles O52: the invariants of the reset state do not read what `boot` loads, so that `run_keeps_invariants`
applies. -/
theorem everyRunFromBootGoesOn : Obligations.EveryRunFromBootGoesOn := by
  intro program turns k
  obtain ⟨hblock, hstream⟩ := resetMeetsTheBlockInvariant
  exact run_keeps_invariants (s := boot program turns) hblock.of_unread hstream.of_unread k

end Sys2Proof.Machine
end

section
/-! One clock cycle (60_exceptions R264): the order of its events, and the cycles in which an acceptance meets an ABORT,
a sink error or a STATUS write. -/

namespace Sys2Proof.Machine

/-- The events of a cycle that occur, in the order of R264; each of the 32 combinations is a fixed list. -/
theorem sameCycle_eq_filter (hardReset host sinkError accept core : Bool) :
    sameCycle hardReset host sinkError accept core =
      ([(hardReset, Turn.hardReset), (host, .host), (sinkError, .sinkError), (accept, .sinkAccept),
        (core, .core)].filter (fun e => e.1)).map (fun e => e.2) := by
  revert hardReset host sinkError accept core
  decide

/-- Outside EMITTING a ready sink receives nothing (42_emission R192). -/
theorem step_sinkAccept_of_not_emitting {s : State} {turns : List Turn} (hs : s.state ≠ .emitting)
    (h : s.schedule = .sinkAccept :: turns) : step s = .next (countRace { s with schedule := turns }) :=
  (step_sinkAccept h).trans (if_neg hs)

/-- The host's turn performs an ABORT while EMITTING (43_control R226). -/
theorem step_abort_of_emitting {s : State} {prog : List HostOp} {turns : List Turn} (hs : s.state = .emitting)
    (hsched : s.schedule = .host :: turns) (hprog : s.hostProgram = .write 0x04 0x00000004 :: prog) :
    step s = .next { s with
      schedule := turns
      hostProgram := prog
      state := .idle
      aborted := true
      sinkRecord := s.sinkRecord ++ [.abort] } := by
  rw [step_host_write hsched hprog]
  refine (memWrite_command (decode_encode .abort) _).trans ((exec_of_accepted rfl).trans ?_)
  exact congrArg _ (abortEffect_of_emitting hs)

/-- The sink's error while EMITTING (42_emission R198). -/
theorem step_sinkError_of_emitting {s : State} {turns : List Turn} (hs : s.state = .emitting)
    (hsched : s.schedule = .sinkError :: turns) :
    step s = .next { s with
      schedule := turns
      startPending := false
      errCause := .ioSink
      state := .error
      sinkRecord := s.sinkRecord ++ [.abort]
      raceStep := s.raceStep + 1 } :=
  (step_sinkError hsched).trans (congrArg _ (sinkErrorEndsTheEmission.1 _ hs))

/-- The host's turn writes STATUS (10_state R26). -/
theorem step_statusWrite {s : State} {v : Word} {prog : List HostOp} {turns : List Turn}
    (hsched : s.schedule = .host :: turns) (hprog : s.hostProgram = .write 0x08 v :: prog) :
    step s = .next (writeStatus v { s with schedule := turns, hostProgram := prog }) :=
  (step_host_write hsched hprog).trans (memWrite_offset .status v _)

/-- The acceptance of the final byte completes the emission (42_emission R194). -/
theorem step_final_byte {s : State} {turns : List Turn} (h : BlockInv s) (hs : s.state = .emitting)
    (hpos : s.pos.toNat + 1 = 2 * s.counts.totalSamples.toNat) (hsched : s.schedule = .sinkAccept :: turns) :
    step s = .next (complete (acceptByte turns s)) := by
  rw [step_acceptByte h hs hsched, if_pos hpos]

/-- Settles O58: after the ABORT or the sink error the acceptance finds no EMITTING state; after the STATUS write it
finds the emission as it was, and completes it. -/
theorem sameCycleOrder : Obligations.SameCycleOrder := by
  refine ⟨sameCycle_eq_filter, fun s prog rest hs hsched hprog => ?_, fun s rest hs hsched => ?_,
    fun s v prog rest hinv hs hpos _ hsched hprog => ?_⟩
  · rw [run_succ (step_abort_of_emitting hs hsched hprog),
      run_succ (step_sinkAccept_of_not_emitting (by simp) rfl), run_zero]
    rfl
  · rw [run_succ (step_sinkError_of_emitting hs hsched),
      run_succ (step_sinkAccept_of_not_emitting (by simp) rfl), run_zero]
    rfl
  · have hwrite := step_statusWrite hsched hprog
    have haccept := step_final_byte (everyStepKeepsTheBlockInvariant _ _ hinv hwrite) hs hpos rfl
    rw [run_succ hwrite, run_succ haccept, run_zero]
    exact ⟨_, rfl, complete_done _, complete_state _⟩

end Sys2Proof.Machine
end

section
/-! The interrupt (60_exceptions R260): its level in the words the host reads, and IRQ_EN (10_state R28). -/

namespace Sys2Proof.Machine

/-- A bit of IRQ_EN as the host reads it. -/
theorem memReadValue_irqEn_bit (s : State) {k : Nat} (hk : k < 32) :
    (memReadValue 0x10 s).getLsbD k = s.irqEn.getLsbD k := by
  rw [show memReadValue 0x10 s = s.irqEn.setWidth 32 from memReadValue_offset .irqEn s]
  simp [hk]

/-- A bit of STATUS as the host reads it. -/
theorem memReadValue_status_bit (s : State) (k : Nat) :
    (memReadValue 0x08 s).getLsbD k = (statusWord s).getLsbD k :=
  congrArg (BitVec.getLsbD · k) (memReadValue_offset .status s)

/-- IRQ_EN keeps the low four bits of the word (10_state R28). -/
theorem setWidth_lowNibble (v : Word) : (v.extractLsb' 0 4).setWidth 32 = v &&& 0x0000000F := by
  refine BitVec.eq_of_toNat_eq ?_
  have hand : v.toNat &&& 15 = v.toNat % 16 := Nat.and_two_pow_sub_one_eq_mod v.toNat 4
  simp [hand]
  omega

/-- Settles O27: DONE, ERR, ABORTED and REJECTED are bits 4, 7, 5 and 6 of STATUS; the write is `writeIrqEn`, at offset
0x10. -/
theorem irqIsTheMaskedStatus : Obligations.IrqIsTheMaskedStatus := by
  refine ⟨rfl, fun s => ⟨?_, fun v => ⟨_, memWrite_offset .irqEn v s, rfl, ?_⟩⟩⟩
  · simp only [memReadValue_status_bit, statusWord_bit, memReadValue_irqEn_bit, Nat.reduceLT]
    rfl
  · exact (memReadValue_offset .irqEn _).trans (setWidth_lowNibble v)

end Sys2Proof.Machine
end

section
/-! Reset, fairness and the end of a run (70_reset_and_hazards R290, R313, R315): the step that no turn makes, the hardware
reset, and the steps of a run that has ended. -/

namespace Sys2Proof.Machine

/-! ## With no turn left -/

/-- The Core is the one agent with fairness (70_reset_and_hazards R313, assumption log 1). -/
theorem step_of_no_turn {s : State} (hsched : s.schedule = []) :
    step s = if s.state = .computing then .next (coreStep (countRace s)) else .next s := by
  simp [step, runSchedule, hsched, idleTurn, takeTurn]

/-- Settles O23: the two branches of `step_of_no_turn`. -/
theorem dueCoreStepIsTaken : Obligations.DueCoreStepIsTaken := fun _ hsched =>
  ⟨fun hs => (step_of_no_turn hsched).trans (if_pos hs), fun hs => (step_of_no_turn hsched).trans (if_neg hs)⟩

/-! ## The hardware reset -/

/-- The registers after a reset do not depend on those before it (10_state R53). -/
theorem blockOf_resetBlock (s : State) : blockOf (resetBlock s) = blockOf State.reset := rfl

/-- Settles O47: the turn is `resetBlock` (`step_hardReset`), which writes every register and nothing of the environment;
in IDLE with no flag set `irq` and `s_valid` are low. -/
theorem hardwareResetLeavesNoTerminator : Obligations.HardwareResetLeavesNoTerminator := fun s turns hsched =>
  ⟨resetBlock (countRace { s with schedule := turns }), step_hardReset hsched, blockOf_resetBlock _, rfl, rfl, rfl, rfl, rfl,
    rfl, rfl⟩

/-! ## A run that has ended -/

theorem sameBlock_blockOf {s u : State} (h : sameBlock s u) : blockOf u = blockOf s := by
  obtain ⟨_, _, _, rfl⟩ := h; rfl

/-- The Host has nothing to do once its last access is performed (70_reset_and_hazards R315). -/
theorem hostStep_of_no_access {s : State} (h : s.hostProgram = []) : hostStep s = .next s := by
  simp [hostStep, h]

/-- Outside EMITTING the block offers no byte to accept (42_emission R192). -/
theorem emitterStep_of_not_emitting {s : State} (h : s.state ≠ .emitting) : emitterStep s = .next s := if_neg h

/-- Outside EMITTING there is no emission for a sink error to end (42_emission R198). -/
theorem sinkErrorStep_of_not_emitting {s : State} (h : s.state ≠ .emitting) : sinkErrorStep s = s := if_neg h

theorem runEnded.not_computing {s : State} (h : runEnded s) : s.state ≠ .computing := by
  obtain ⟨-, hs | hs⟩ := h <;> simp [hs]

theorem runEnded.not_emitting {s : State} (h : runEnded s) : s.state ≠ .emitting := by
  obtain ⟨-, hs | hs⟩ := h <;> simp [hs]

/-- In an ended run the step of each agent is disabled, and only a hardware reset changes more than the model's counter
(70_reset_and_hazards R315). -/
theorem takeTurn_of_runEnded {s : State} (hend : runEnded s) {turn : Turn} (hturn : turn ≠ .hardReset) :
    ∃ k, takeTurn turn s = .next { s with raceStep := k } := by
  cases turn with
  | host => exact ⟨s.raceStep, hostStep_of_no_access hend.1⟩
  | core => exact ⟨_, congrArg _ (coreStep_of_not_computing (s := countRace s) hend.not_computing)⟩
  | sinkAccept => exact ⟨_, emitterStep_of_not_emitting (s := countRace s) hend.not_emitting⟩
  | sinkError => exact ⟨_, congrArg _ (sinkErrorStep_of_not_emitting (s := countRace s) hend.not_emitting)⟩
  | hardReset => exact absurd rfl hturn

/-- What a step of an ended run changes is the schedule and the model's counter. -/
theorem step_of_runEnded {s t : State} (hend : runEnded s) (hstep : step s = .next t)
    (hhard : ¬ nextTurnIs s .hardReset) : sameBlock s t ∧ t.hostProgram = s.hostProgram := by
  cases hsched : s.schedule with
  | nil =>
    rw [step_of_no_turn hsched, if_neg hend.not_computing] at hstep
    obtain rfl := Host.Outcome.next.inj hstep
    exact ⟨⟨_, _, _, rfl⟩, rfl⟩
  | cons turn turns =>
    have hturn : turn ≠ .hardReset := fun h => hhard ⟨turns, h ▸ hsched⟩
    obtain ⟨k, htake⟩ := takeTurn_of_runEnded (s := { s with schedule := turns }) hend hturn
    have hnext : step s = takeTurn turn { s with schedule := turns } := by simp [step, runSchedule, hsched]
    rw [hnext, htake] at hstep
    obtain rfl := Host.Outcome.next.inj hstep
    exact ⟨⟨_, _, _, rfl⟩, rfl⟩

/-- Settles O59: by `step_of_runEnded` the step keeps the block, the record and the reads, and with STATE and the empty
list of accesses the end of the run. -/
theorem endedRunsKeepTheirObservation : Obligations.EndedRunsKeepTheirObservation := by
  intro s t hend hstep hhard
  obtain ⟨hblock, hprog⟩ := step_of_runEnded hend hstep hhard
  obtain ⟨hnone, hstate⟩ := hend
  exact ⟨⟨hprog.trans hnone, sameBlock_state hblock ▸ hstate⟩, sameBlock_blockOf hblock, sameBlock_sinkRecord hblock,
    sameBlock_hostReads hblock⟩

end Sys2Proof.Machine
end
